-- ==== Sys2Proof/Word.lean ====
section
/-!
DEFINITION. The word types of TEA-CORE (00_scope.md R6, R7): 32-bit unsigned words, bytes, and the 4-bit values of hex
digits. R8's add32, sub32 and xor are the BitVec operations `+`, `-` and `^^^`, which work modulo 2^32; its shl32 and
shr32 are `<<<` and `>>>`, the logical shifts.
-/
namespace Sys2Proof

/-- WORD (R6): 32 bits, unsigned. -/
abbrev Word := BitVec 32

/-- One byte of a buffer. -/
abbrev Byte := BitVec 8

/-- The value of one hexadecimal digit (R13). -/
abbrev Nibble := BitVec 4

end Sys2Proof
end

