-- ==== Sys2Proof/Config.lean ====
section
/-!
DEFINITION. What one TEA-CORE fixes and what the spec leaves to a draw. BUF_BYTES is the open parameter of 00_scope.md R6;
a draw is a constant with no body, so that no statement can rest on its value.
-/
namespace Sys2Proof

/-- The two byte buffers: the source buffer (10_state.md R29) and the destination buffer (R30). -/
inductive Buf where
  | abuf
  | bbuf
  deriving DecidableEq, Repr

/-- BUF_BYTES (00_scope.md R6): the capacity in bytes of each buffer, with the constraint R6 puts on it. -/
abbrev BufBytes := { n : Nat // 32 ≤ n ∧ n ≤ 4096 ∧ n % 8 = 0 }

/-- The reference value of BUF_BYTES (00_scope.md R6). -/
def Config.referenceBufBytes : BufBytes := ⟨256, by decide⟩

/-- The draw of one buffer byte (70_reset_and_hazards.md R211, 93_implementation_defined.md U1): what byte `i` of the buffer
holds from the `resets`-th reset on, until it is written. Free value, log entries 1 and 2. -/
opaque Config.drawByte (resets : Nat) (buffer : Buf) (i : Nat) : Byte

/-- The rdata of a READ answered ERROR (20_memory.md R58, 93_implementation_defined.md U4), for the `n`-th reply on the host
port. Free value, log entry 3. -/
opaque Config.errorRdata (n : Nat) : Word

end Sys2Proof
end

