-- ==== Sys2Proof/Machine/State.lean ====
section
/-!
DEFINITION. The state of TEA-CORE as plain data (10_state.md R20): every register, both buffers, the sequencer state, the reset
input, the parameter BUF_BYTES, and, as the model's own, the inputs still to come, the replies given and the count of resets.
-/
namespace Sys2Proof.Machine

/-- PHASE (10_state.md R31). -/
inductive Phase where
  | idle
  | busy
  deriving DecidableEq, Repr

/-- The error kinds a command can raise (60_exceptions.md R180, codes 1 to 5). -/
inductive CmdError where
  | invalidKeyFormat
  | invalidHexFormat
  | invalidBlockLength
  | allocationFailure
  | illegalCommand
  deriving DecidableEq, Repr

/-- The key registers KEY0 to KEY3 (10_state.md R21). -/
structure Key where
  k0 : Word
  k1 : Word
  k2 : Word
  k3 : Word
  deriving DecidableEq, Repr

/-- A buffer's bytes: the (offset, byte) pairs of the bytes written since reset, offsets strictly rising. An offset that is
not listed has not been written since reset (log entry 1). -/
abbrev Memory := List Host.Cell

/-- READ or WRITE (20_memory.md R50). -/
inductive AccessKind where
  | read
  | write
  deriving DecidableEq, Repr

/-- A host access (20_memory.md R50): `offset` from BASE and `size` in bytes are any numbers; `wdata` is used by a WRITE only. -/
structure Access where
  kind : AccessKind
  offset : Nat
  size : Nat
  wdata : Word
  deriving DecidableEq, Repr

/-- OKAY or ERROR (20_memory.md R50). -/
inductive Resp where
  | okay
  | error
  deriving DecidableEq, Repr

/-- The answer to an access (20_memory.md R50): a READ has read data, a WRITE has none. -/
structure Reply where
  resp : Resp
  rdata : Option Word
  deriving DecidableEq, Repr

/-- What moves next (log entry 4): the host's access, the sequencer's turn, or an edge of the reset input. -/
inductive Input where
  /-- the host performs an access (20_memory.md R50) -/
  | access (a : Access)
  /-- the delay of the command in flight is over: the sequencer takes its completion step (30_encoding.md R86, R87) -/
  | sequencer
  /-- the platform makes the reset input active (70_reset_and_hazards.md R210) -/
  | resetAssert
  /-- the platform makes the reset input inactive (70_reset_and_hazards.md R212) -/
  | resetRelease
  deriving DecidableEq, Repr

/-- The machine's state. -/
structure State where
  /-- STATUS.DONE (R26) -/
  done : Bool
  /-- STATUS.ERR (R26) -/
  err : Bool
  /-- STATUS.ECODE (R26, R180): none is code 0, NONE -/
  ecode : Option CmdError
  /-- INTEN.DONEIE (R28) -/
  doneie : Bool
  /-- MLEN (R23) -/
  mlen : Word
  /-- OLEN (R24) -/
  olen : Word
  /-- KEY0 to KEY3 (R21) -/
  key : Key
  /-- V0 (R22) -/
  v0 : Word
  /-- V1 (R22) -/
  v1 : Word
  /-- ABUF (R29) -/
  abuf : Memory
  /-- BBUF (R30) -/
  bbuf : Memory
  /-- PHASE (R31); STATUS.BUSY is 1 exactly when it is busy -/
  phase : Phase
  /-- PEND (R31), meaningful only while PHASE is busy -/
  pend : Word
  /-- whether the platform holds the reset input active (R212) -/
  resetHeld : Bool
  /-- the parameter BUF_BYTES (R6), the same in every step (log entry 5) -/
  bufBytes : BufBytes
  /-- the model's own: how many resets have been taken, for the draws (log entry 2) -/
  resets : Nat
  /-- the model's own: what moves next, the first one first (log entry 4) -/
  inputs : List Input
  /-- the model's own: the replies given on the host port, the newest first (log entry 10) -/
  replies : List Reply
  deriving DecidableEq, Repr

/-- Why the machine stops. -/
inductive Fault where
  /-- Raised by `step` alone, never by an instruction: a host access while the reset input is held active. "a model gives it no
  step (the host is stuck until reset ends)" (70_reset_and_hazards.md R212). Unsafe (log entry 8): an implementation that
  answers such accesses has behaviour this model lacks. -/
  | accessDuringReset
  deriving DecidableEq, Repr

/-- Why an instruction has no meaning. -/
inductive Refusal where
  /-- Raised by an arm of `exec` whose instruction has no meaning yet; there is none. Safe. -/
  | notModelled (mnemonic : String)
  deriving DecidableEq, Repr

/-- The machine right after reset (10_state.md R36, 70_reset_and_hazards.md R210), with the reference BUF_BYTES (R6). PEND is
unspecified and not observable: zero is a DESIGN CHOICE (log entry 6). Nothing of a buffer is listed: every byte is a draw
(R211). The host has presented nothing (log entry 11). -/
def State.reset : State where
  done := false
  err := false
  ecode := none
  doneie := false
  mlen := 0
  olen := 0
  key := ⟨0, 0, 0, 0⟩
  v0 := 0
  v1 := 0
  abuf := []
  bbuf := []
  phase := .idle
  pend := 0
  resetHeld := false
  bufBytes := Config.referenceBufBytes
  resets := 0
  inputs := []
  replies := []

end Sys2Proof.Machine
end

