-- ==== Sys2Proof/Machine/Flags.lean ====
section
/-!
DEFINITION. The flags: the words STATUS and INTEN as the host reads them (10_state.md R26, R28), the write-1-to-clear of STATUS
(R26, 60_exceptions.md R189), and the output irq (10_state.md R33). TEA-CORE has no other flags (R35).
-/
namespace Sys2Proof.Machine

/-- The ECODE of an error kind (60_exceptions.md R180). -/
def CmdError.code : CmdError → BitVec 4
  | .invalidKeyFormat => 1
  | .invalidHexFormat => 2
  | .invalidBlockLength => 3
  | .allocationFailure => 4
  | .illegalCommand => 5

/-- The ECODE field (R180): 0, NONE, where no error is recorded. -/
def ecodeField : Option CmdError → BitVec 4
  | none => 0
  | some c => c.code

/-- STATUS.BUSY is 1 exactly when PHASE is busy (10_state.md R31). -/
def State.busy (s : State) : Bool := s.phase = .busy

/-- STATUS as a word (10_state.md R26): ECODE in bits 7:4, bit 3 and bits 31:8 read as zero, ERR bit 2, DONE bit 1, BUSY bit 0. -/
def State.statusWord (s : State) : Word :=
  0#24 ++ ecodeField s.ecode ++ 0#1 ++ BitVec.ofBool s.err ++ BitVec.ofBool s.done ++ BitVec.ofBool s.busy

/-- INTEN as a word (10_state.md R28): DONEIE in bit 0, bits 31:1 read as zero. -/
def State.intenWord (s : State) : Word := 0#31 ++ BitVec.ofBool s.doneie

/-- The level of irq (10_state.md R33, 60_exceptions.md R191). -/
def State.irq (s : State) : Bool := s.doneie && s.done

/-- A write to STATUS while idle (10_state.md R26): bit 1 clears DONE, bit 2 clears ERR and ECODE, nothing else changes. -/
def clearStatus (w : Word) (s : State) : State :=
  { s with
    done := s.done && !w.getLsbD 1
    err := s.err && !w.getLsbD 2
    ecode := if w.getLsbD 2 then none else s.ecode }

/-- A write to INTEN (10_state.md R28, 20_memory.md R59): DONEIE takes bit 0, the reserved bits ignore the write. -/
def writeInten (w : Word) (s : State) : State := { s with doneie := w.getLsbD 0 }

end Sys2Proof.Machine
end

