-- ==== Sys2Proof/Machine/Ops.lean ====
section
/-!
DEFINITION. The named operations over memory and registers: bytes of a buffer and the primitives MemRead and MemWrite
(00_scope.md R10), register writes, and the lifecycle of a command: issue (30_encoding.md R85), completion (R86), the recording
of an error, which is TEA-CORE's only exception entry (60_exceptions.md R186), and reset (70_reset_and_hazards.md R210).
The return from an error is `clearStatus` (R189), beside the flags.
-/
namespace Sys2Proof.Machine

/-- `for i = 0 to n-1` of the spec's pseudocode: `body i` for i = 0, 1, ..., n-1 in this order. -/
def loop {α : Type} (n : Nat) (body : Nat → α → α) (a : α) : α :=
  match n with
  | 0 => a
  | k + 1 => body k (loop k body a)

/-! ### A buffer's bytes -/

/-- The byte written at offset `i`, if one has been written since reset. -/
def Memory.find (m : Memory) (i : Nat) : Option Byte :=
  match m with
  | [] => none
  | c :: rest => if c.1 = i then some c.2 else Memory.find rest i

/-- `B[i] <- v` (00_scope.md R10), keeping the offsets rising and each listed once. -/
def Memory.store (m : Memory) (i : Nat) (v : Byte) : Memory :=
  match m with
  | [] => [(i, v)]
  | c :: rest =>
    if i < c.1 then (i, v) :: c :: rest
    else if i = c.1 then (i, v) :: rest
    else c :: Memory.store rest i v

/-- The canonical form: offsets strictly rising, all below the capacity. A listed byte is one written since reset, so no listed
entry says what an unlisted offset says. -/
abbrev Memory.wf (m : Memory) (capacity : Nat) : Prop :=
  m.Pairwise (fun c d => c.1 < d.1) ∧ ∀ c ∈ m, c.1 < capacity

/-- The bytes of a buffer that have been written. -/
def State.buf (s : State) : Buf → Memory
  | .abuf => s.abuf
  | .bbuf => s.bbuf

/-- `B[i]` (00_scope.md R10): the byte written there, or its draw (70_reset_and_hazards.md R211; log entry 1). -/
def State.readByte (s : State) (b : Buf) (i : Nat) : Byte :=
  match (s.buf b).find i with
  | some v => v
  | none => Config.drawByte s.resets b i

/-- MemRead(B, i, 4) (00_scope.md R10): little-endian, `B i` in bits 7:0. -/
def memRead4 (B : Nat → Byte) (i : Nat) : Word := B (i + 3) ++ B (i + 2) ++ B (i + 1) ++ B i

/-- MemRead(B, i, 8) (00_scope.md R10). -/
def memRead8 (B : Nat → Byte) (i : Nat) : BitVec 64 := memRead4 B (i + 4) ++ memRead4 B i

/-- Byte `j` of a value: bits 8j+7 to 8j (00_scope.md R10). -/
def byteOf {n : Nat} (v : BitVec n) (j : Nat) : Byte := v.extractLsb' (8 * j) 8

/-- MemWrite(B, i, n, v) (00_scope.md R10): `B[i+j] <- v[8j+7:8j]` for j = 0 to n-1. -/
def memWrite {w : Nat} (n : Nat) (i : Nat) (v : BitVec w) (m : Memory) : Memory :=
  loop n (fun j m => m.store (i + j) (byteOf v j)) m

/-! ### Register and buffer writes -/

def setMlen (w : Word) (s : State) : State := { s with mlen := w }

def setV0 (w : Word) (s : State) : State := { s with v0 := w }

def setV1 (w : Word) (s : State) : State := { s with v1 := w }

/-- KEY0 to KEY3 are written all four at once (10_state.md R21). -/
def setKey (k : Key) (s : State) : State := { s with key := k }

def setBuf (b : Buf) (m : Memory) (s : State) : State :=
  match b with
  | .abuf => { s with abuf := m }
  | .bbuf => { s with bbuf := m }

/-- The effects of a buffer-producing command: the new BBUF, and its output length in OLEN (10_state.md R24, R30). -/
def setOutput (m : Memory) (len : Nat) (s : State) : State := { s with bbuf := m, olen := BitVec.ofNat 32 len }

/-! ### The life of a command -/

/-- Issue (30_encoding.md R85): STATUS is cleared, PEND takes the word, PHASE becomes busy. -/
def issue (w : Word) (s : State) : State :=
  { s with done := false, err := false, ecode := none, pend := w, phase := .busy }

/-- Completion without an error (30_encoding.md R86), after the command's effects: DONE is set and PHASE is idle. ERR and ECODE
are 0 at completion, as each command's rule says (log entry 9). -/
def completeOk (s : State) : State := { s with done := true, err := false, ecode := none, phase := .idle }

/-- The recording of an error, the "trap entry" of TEA-CORE (60_exceptions.md R186): ERR, ECODE and DONE are set, PHASE is idle,
nothing else is saved and nothing else changes. -/
def recordError (c : CmdError) (s : State) : State :=
  { s with done := true, err := true, ecode := some c, phase := .idle }

/-- The completion step (30_encoding.md R86) for a command whose EXEC gave `r`: the state with its effects, or the error it
raised. On an error the effects are discarded, so STATUS and PHASE alone change (00_scope.md R11). -/
def finish (s : State) (r : Except CmdError State) : Host.Outcome State Fault Refusal :=
  match r with
  | .ok t => .next (completeOk t)
  | .error c => .next (recordError c s)

/-! ### Reset -/

/-- The reset event (70_reset_and_hazards.md R210): a command in flight is abandoned and every piece of the spec's state takes
its value from 10_state.md R36. The buffers are not cleared: each byte is a new draw (R211; log entry 2). What is not the
chip's state stays: the parameter BUF_BYTES, the inputs to come and the replies given. -/
def resetEvent (s : State) : State :=
  { State.reset with
    resetHeld := true
    bufBytes := s.bufBytes
    resets := s.resets + 1
    inputs := s.inputs
    replies := s.replies }

/-- The end of reset (70_reset_and_hazards.md R212). -/
def releaseReset (s : State) : State := { s with resetHeld := false }

/-- The inputs still to come. -/
def setInputs (l : List Input) (s : State) : State := { s with inputs := l }

/-- The host port gives a reply (20_memory.md R50). -/
def giveReply (r : Reply) (s : State) : State := { s with replies := r :: s.replies }

end Sys2Proof.Machine
end

