-- ==== Sys2Proof/Machine/Operands.lean ====
section
/-!
DEFINITION. The operand forms of the commands (30_encoding.md R82): the message in ABUF and its length (43_message_codec.md R135),
the length arithmetic (00_scope.md R14), the capacity (60_exceptions.md R183), the hex digits (00_scope.md R13) and the text
checks built on them.
-/
namespace Sys2Proof.Machine

/-- n = x[MLEN], an unsigned integer (10_state.md R23). -/
abbrev State.len (s : State) : Nat := s.mlen.toNat

/-- BUF_BYTES (00_scope.md R6). -/
def State.capacity (s : State) : Nat := s.bufBytes.val

/-- ceil8 (00_scope.md R14). -/
def ceil8 (n : Nat) : Nat := (n + 7) / 8 * 8

/-- HEXVAL (00_scope.md R13): none is INVALID. -/
def hexVal (c : Byte) : Option Nibble :=
  if 0x30#8 ≤ c ∧ c ≤ 0x39#8 then some ((c - 0x30#8).setWidth 4)
  else if 0x41#8 ≤ c ∧ c ≤ 0x46#8 then some ((c - 0x41#8 + 10#8).setWidth 4)
  else if 0x61#8 ≤ c ∧ c ≤ 0x66#8 then some ((c - 0x61#8 + 10#8).setWidth 4)
  else none

/-- HEXCHAR (00_scope.md R13): upper case. -/
def hexChar (d : Nibble) : Byte :=
  if d ≤ 9#4 then 0x30#8 + d.setWidth 8 else 0x41#8 + (d.setWidth 8 - 10#8)

/-- The space character (00_scope.md R12). -/
def space : Byte := 0x20#8

/-- Whether `B[0 .. n-1]` holds hexadecimal digits only. -/
def hexText (B : Nat → Byte) (n : Nat) : Bool := (List.range n).all (fun i => (hexVal (B i)).isSome)

/-- HEXVAL of a character already known to be a digit: the text is checked before it is converted (42_key_schedule.md R121,
44_hex_codec.md R156), so the 0 for a byte that is none is never used by a command. -/
def digit (c : Byte) : Nibble := (hexVal c).getD 0

/-- The message with zeros after its `n` bytes: T of 43_message_codec.md R138, the padding of R137. The zeros come from the
datapath, not from the buffer (20_memory.md R63). -/
def padded (B : Nat → Byte) (n : Nat) (i : Nat) : Byte := if i < n then B i else 0#8

end Sys2Proof.Machine
end

