-- ==== Sys2Proof/Machine/HostPort.lean ====
section
/-!
DEFINITION. The host port (20_memory.md): the address map (R51), which accesses are admitted (R53 to R60), in the order of
60_exceptions.md R188, and what an admitted READ answers and an admitted WRITE does (R59, R60).
-/
namespace Sys2Proof.Machine

/-- What an offset reaches (R51). -/
inductive Target where
  | cmd
  | status
  | inten
  | mlen
  | olen
  | key0
  | key1
  | key2
  | key3
  | v0
  | v1
  /-- the buffer bytes i to i+3 (R56) -/
  | word (b : Buf) (i : Nat)
  deriving DecidableEq, Repr

/-- The causes of a bus error, in the order they are checked (60_exceptions.md R188). All give the same ERROR response. -/
inductive BusError where
  /-- 1: size is not 4 (R53) -/
  | size
  /-- 2: offset is not a multiple of 4 (R54) -/
  | misaligned
  /-- 3: reserved offset, or buffer word beyond BUF_BYTES (R55, R56) -/
  | unmapped
  /-- 4: PHASE is busy and the access is not one of the three of R60 -/
  | busy
  /-- 5: WRITE to OLEN or KEYj (R59) -/
  | readOnly
  deriving DecidableEq, Repr

/-- The registers of the address map (R51). -/
def registerMap : List (Nat × Target) :=
  [ (0x000, .cmd),
    (0x004, .status),
    (0x008, .inten),
    (0x00C, .mlen),
    (0x010, .olen),
    (0x020, .key0),
    (0x024, .key1),
    (0x028, .key2),
    (0x02C, .key3),
    (0x030, .v0),
    (0x034, .v1) ]

/-- The offset of the ABUF window (R51). -/
def abufBase : Nat := 0x1000

/-- The offset of the BBUF window (R51). -/
def bbufBase : Nat := 0x2000

/-- The size of a buffer window (R51). -/
def windowSize : Nat := 0x1000

/-- The address map (R51, R56): what an aligned offset reaches in a TEA-CORE of this capacity. -/
def target (capacity offset : Nat) : Option Target :=
  if offset < abufBase then registerMap.lookup offset
  else if offset < abufBase + windowSize then
    if offset - abufBase + 4 ≤ capacity then some (.word .abuf (offset - abufBase)) else none
  else if offset < bbufBase + windowSize then
    if offset - bbufBase + 4 ≤ capacity then some (.word .bbuf (offset - bbufBase)) else none
  else none

/-- The three accesses that are admitted while busy (R60). -/
def admittedBusy (k : AccessKind) (t : Target) : Bool :=
  match k, t with
  | .read, .status => true
  | .read, .inten => true
  | .write, .inten => true
  | _, _ => false

/-- The targets a host cannot write (R59). -/
def Target.readOnly : Target → Bool
  | .olen | .key0 | .key1 | .key2 | .key3 => true
  | .cmd | .status | .inten | .mlen | .v0 | .v1 | .word _ _ => false

/-- Admission (60_exceptions.md R188): the target of an admitted access, or the first cause of its bus error. -/
def admission (s : State) (a : Access) : Except BusError Target :=
  if a.size ≠ 4 then .error .size
  else if a.offset % 4 ≠ 0 then .error .misaligned
  else
    match target s.capacity a.offset with
    | none => .error .unmapped
    | some t =>
      if s.busy && !admittedBusy a.kind t then .error .busy
      else if a.kind = .write ∧ t.readOnly then .error .readOnly
      else .ok t

/-- rdata of an admitted READ (R59, R60). -/
def readTarget (s : State) : Target → Word
  | .cmd => 0
  | .status => s.statusWord
  | .inten => s.intenWord
  | .mlen => s.mlen
  | .olen => s.olen
  | .key0 => s.key.k0
  | .key1 => s.key.k1
  | .key2 => s.key.k2
  | .key3 => s.key.k3
  | .v0 => s.v0
  | .v1 => s.v1
  | .word b i => memRead4 (s.readByte b) i

/-- The effect of an admitted WRITE (R59, R60). A WRITE to OLEN or KEYj is never admitted, and has no effect. -/
def writeTarget (s : State) (t : Target) (w : Word) : State :=
  match t with
  | .cmd => issue w s
  | .status => clearStatus w s
  | .inten => writeInten w s
  | .mlen => setMlen w s
  | .v0 => setV0 w s
  | .v1 => setV1 w s
  | .word b i => setBuf b (memWrite 4 i w (s.buf b)) s
  | .olen | .key0 | .key1 | .key2 | .key3 => s

/-- The reply to an access answered ERROR (R58): a READ's data is a draw (log entry 3). -/
def errorReply (s : State) (k : AccessKind) : Reply :=
  match k with
  | .read => ⟨.error, some (Config.errorRdata s.replies.length)⟩
  | .write => ⟨.error, none⟩

/-- An access at the host port (R50, R58 to R60): the state after it and the reply. An access answered ERROR changes nothing. -/
def access (s : State) (a : Access) : State × Reply :=
  match admission s a with
  | .error _ => (s, errorReply s a.kind)
  | .ok t =>
    match a.kind with
    | .read => (s, ⟨.okay, some (readTarget s t)⟩)
    | .write => (writeTarget s t a.wdata, ⟨.okay, none⟩)

/-- The host performs an access and is given the reply. -/
def hostStep (a : Access) (s : State) : State := giveReply (access s a).2 (access s a).1

end Sys2Proof.Machine
end

