-- ==== Sys2Proof/Syntax.lean ====
section
/-!
DEFINITION. The commands of TEA-CORE (30_encoding.md R81, R84), one constructor for each mnemonic of the opcode table. A
command has no operand fields (R80, R82), so the constructors of the ten defined commands have no arguments. ILLEGAL stands for
every reserved word and carries that word (log entry 12).
-/
namespace Sys2Proof

inductive Instr where
  /-- NOP, 45_control.md R170 -/
  | nop
  /-- ENC, 41_block_cipher.md R105 -/
  | enc
  /-- DEC, 41_block_cipher.md R106 -/
  | dec
  /-- KEYHEX, 42_key_schedule.md R121 -/
  | keyhex
  /-- KEYRAW, 42_key_schedule.md R122 -/
  | keyraw
  /-- PAD, 43_message_codec.md R137 -/
  | pad
  /-- MENC, 43_message_codec.md R138 -/
  | menc
  /-- MDEC, 43_message_codec.md R139 -/
  | mdec
  /-- B2H, 44_hex_codec.md R155 -/
  | b2h
  /-- H2B, 44_hex_codec.md R156 -/
  | h2b
  /-- ILLEGAL, 45_control.md R171: the reserved command word `w` -/
  | illegal (w : Word)
  deriving DecidableEq, Repr

/-- The mnemonic of the opcode table. -/
def Instr.mnemonic : Instr → String
  | .nop => "NOP"
  | .enc => "ENC"
  | .dec => "DEC"
  | .keyhex => "KEYHEX"
  | .keyraw => "KEYRAW"
  | .pad => "PAD"
  | .menc => "MENC"
  | .mdec => "MDEC"
  | .b2h => "B2H"
  | .h2b => "H2B"
  | .illegal _ => "ILLEGAL"

end Sys2Proof
end

