-- ==== Sys2Proof/WellFormed.lean ====
section
/-!
DEFINITION. Which terms of Instr are commands. The ten defined commands have no operands to check; ILLEGAL must carry a word
that 30_encoding.md R83 reserves.
-/
namespace Sys2Proof

/-- A word R81 gives no mnemonic (R83): every word but 0x0 to 0x9. -/
def reservedWord (w : Word) : Bool := 9#32 < w

/-- A well-formed command: an ILLEGAL carries a reserved word. -/
def Instr.wf : Instr → Bool
  | .nop | .enc | .dec | .keyhex | .keyraw | .pad | .menc | .mdec | .b2h | .h2b => true
  | .illegal w => reservedWord w

end Sys2Proof
end

