-- ==== Sys2Proof/Decode.lean ====
section
/-!
DEFINITION. The decoder and the encoder of command words (30_encoding.md R80, R81, R83, R84), and the opcode table as rows of
mask and pattern.
-/
namespace Sys2Proof

/-- The opcode map of R81: the whole word is compared. -/
def opcodeMap : List (Word × Instr) :=
  [ (0x00000000, .nop),
    (0x00000001, .enc),
    (0x00000002, .dec),
    (0x00000003, .keyhex),
    (0x00000004, .keyraw),
    (0x00000005, .pad),
    (0x00000006, .menc),
    (0x00000007, .mdec),
    (0x00000008, .b2h),
    (0x00000009, .h2b) ]

/-- decode of R84: total on all words. A word that R81 gives no mnemonic is ILLEGAL (R83). -/
def decodeWord (w : Word) : Instr :=
  match opcodeMap.lookup w with
  | some i => i
  | none => .illegal w

/-- Why a byte string holds no command. -/
inductive DecodeError where
  /-- fewer than the four bytes of a command word (R80) -/
  | truncated
  deriving DecidableEq, Repr

/-- The word of four bytes, the first at the lowest address (20_memory.md R57, little-endian). -/
def wordOfBytes (b0 b1 b2 b3 : Byte) : Word := b3 ++ b2 ++ b1 ++ b0

/-- Decode the command word at the head of a byte string: the command and the bytes after it (log entry 16). -/
def decode : List Byte → Except DecodeError (Instr × List Byte)
  | b0 :: b1 :: b2 :: b3 :: rest => .ok (decodeWord (wordOfBytes b0 b1 b2 b3), rest)
  | _ => .error .truncated

/-- The command word of a command (R80, R81): OP in bits 3:0 and zeros above, or the reserved word an ILLEGAL carries. -/
def encode : Instr → Word
  | .nop => 0x00000000
  | .enc => 0x00000001
  | .dec => 0x00000002
  | .keyhex => 0x00000003
  | .keyraw => 0x00000004
  | .pad => 0x00000005
  | .menc => 0x00000006
  | .mdec => 0x00000007
  | .b2h => 0x00000008
  | .h2b => 0x00000009
  | .illegal w => w

/-- The four bytes of a word, the lowest address first (20_memory.md R57). -/
def bytesOfWord (w : Word) : List Byte :=
  [w.extractLsb' 0 8, w.extractLsb' 8 8, w.extractLsb' 16 8, w.extractLsb' 24 8]

/-- The command word as the bytes the hardware stores. -/
def encodeBytes (i : Instr) : List Byte := bytesOfWord (encode i)

/-- One row of the opcode table: the words `w` with `w & mask = pattern` have this mnemonic. -/
structure OpcodeRow where
  mnemonic : String
  mask : Word
  pattern : Word
  deriving DecidableEq, Repr

/-- Whether a word is one of the row's. -/
def OpcodeRow.holds (r : OpcodeRow) (w : Word) : Bool := w &&& r.mask == r.pattern

/-- The rows of the defined commands: the mask is 0xFFFFFFFF for every one (R81). -/
def definedRows : List OpcodeRow :=
  [ ⟨"NOP", 0xFFFFFFFF, 0x00000000⟩,
    ⟨"ENC", 0xFFFFFFFF, 0x00000001⟩,
    ⟨"DEC", 0xFFFFFFFF, 0x00000002⟩,
    ⟨"KEYHEX", 0xFFFFFFFF, 0x00000003⟩,
    ⟨"KEYRAW", 0xFFFFFFFF, 0x00000004⟩,
    ⟨"PAD", 0xFFFFFFFF, 0x00000005⟩,
    ⟨"MENC", 0xFFFFFFFF, 0x00000006⟩,
    ⟨"MDEC", 0xFFFFFFFF, 0x00000007⟩,
    ⟨"B2H", 0xFFFFFFFF, 0x00000008⟩,
    ⟨"H2B", 0xFFFFFFFF, 0x00000009⟩ ]

/-- The rows of the reserved words (R83): OP 0xA or 0xB, OP 0xC to 0xF, and, for k = 4 to 31, the words whose highest set bit
is bit k. -/
def reservedRows : List OpcodeRow :=
  ⟨"ILLEGAL", 0xFFFFFFFE, 0x0000000A⟩ :: ⟨"ILLEGAL", 0xFFFFFFFC, 0x0000000C⟩ ::
    (List.range' 4 28).map (fun k => ⟨"ILLEGAL", 0xFFFFFFFF#32 <<< k, 1#32 <<< k⟩)

/-- The forty rows of the opcode table. -/
def opcodeTable : List OpcodeRow := definedRows ++ reservedRows

/-- The instruction the decoder reads from an instruction of `nbits` bits, numbered as the opcode table numbers them: the
bits above `nbits` are 0, the word is laid out as four bytes, little-endian, and given to `decode`. A command is exactly 32
bits long (R80): a longer row is no command, and one of no bits is none either (log entry 17). -/
def decodeTableWord (nbits w : Nat) : Option Instr :=
  if nbits = 0 ∨ 32 < nbits then none
  else
    match decode (bytesOfWord (BitVec.ofNat 32 (w % 2 ^ nbits))) with
    | .ok (i, _) => some i
    | .error _ => none

end Sys2Proof
end

