-- ==== Sys2Proof/Machine/BlockCipher.lean ====
section
/-!
DEFINITION. The block cipher datapath (41_block_cipher.md): the mixing function, TEA_ENC, TEA_DEC, and the commands ENC and DEC.
Only the canonical fixed-slot formulation exists (R109).
-/
namespace Sys2Proof.Machine

/-- DELTA (R100). -/
def DELTA : Word := 0x9E3779B9

/-- ROUNDS (R100). -/
def ROUNDS : Nat := 32

/-- The sum decryption starts from, DELTA * 32 modulo 2^32 (R104). -/
def DECSUM : Word := 0xC6EF3720

/-- The mixing function F (R101): logical shifts, each sum modulo 2^32 before the XORs. -/
def mixF (x sum a b : Word) : Word := ((x <<< 4) + a) ^^^ (x + sum) ^^^ ((x >>> 5) + b)

/-- The working values of TEA_ENC and TEA_DEC (10_state.md R32: datapath temporaries, no state). -/
structure Round where
  sum : Word
  v0 : Word
  v1 : Word
  deriving DecidableEq, Repr

/-- One round of TEA_ENC (R102): the v1 line uses the v0 just updated. -/
def encRound (k : Key) (r : Round) : Round :=
  let sum := r.sum + DELTA
  let v0 := r.v0 + mixF r.v1 sum k.k0 k.k1
  let v1 := r.v1 + mixF v0 sum k.k2 k.k3
  ⟨sum, v0, v1⟩

/-- One round of TEA_DEC (R103): the v1 line first, with v0 as it stands; the v0 line uses the v1 just updated. -/
def decRound (k : Key) (r : Round) : Round :=
  let v1 := r.v1 - mixF r.v0 r.sum k.k2 k.k3
  let v0 := r.v0 - mixF v1 r.sum k.k0 k.k1
  ⟨r.sum - DELTA, v0, v1⟩

/-- The working values of TEA_ENC after `n` rounds. -/
def encRounds (n : Nat) (v0 v1 : Word) (k : Key) : Round := loop n (fun _ => encRound k) ⟨0, v0, v1⟩

/-- The working values of TEA_DEC after `n` rounds. -/
def decRounds (n : Nat) (v0 v1 : Word) (k : Key) : Round := loop n (fun _ => decRound k) ⟨DECSUM, v0, v1⟩

/-- TEA_ENC (R102). -/
def teaEnc (v0 v1 : Word) (k : Key) : Word × Word := ((encRounds ROUNDS v0 v1 k).v0, (encRounds ROUNDS v0 v1 k).v1)

/-- TEA_DEC (R103). -/
def teaDec (v0 v1 : Word) (k : Key) : Word × Word := ((decRounds ROUNDS v0 v1 k).v0, (decRounds ROUNDS v0 v1 k).v1)

/-- V0 and V1 take a result block; both inputs are read before either output is written (R105). -/
def setBlock (e : Word × Word) (s : State) : State := setV1 e.2 (setV0 e.1 s)

/-- ENC (R105). -/
def execEnc (s : State) : Host.Outcome State Fault Refusal :=
  finish s (.ok (setBlock (teaEnc s.v0 s.v1 s.key) s))

/-- DEC (R106). -/
def execDec (s : State) : Host.Outcome State Fault Refusal :=
  finish s (.ok (setBlock (teaDec s.v0 s.v1 s.key) s))

end Sys2Proof.Machine
end

