-- ==== Sys2Proof/Machine/Control.lean ====
section
/-!
DEFINITION. The control commands (45_control.md): NOP and the reserved words.
-/
namespace Sys2Proof.Machine

/-- NOP (R170): no effect beyond completion. -/
def execNop (s : State) : Host.Outcome State Fault Refusal := finish s (.ok s)

/-- ILLEGAL (R171): every reserved word raises IllegalCommand and reads no operand. -/
def execIllegal (_w : Word) (s : State) : Host.Outcome State Fault Refusal := finish s (.error .illegalCommand)

end Sys2Proof.Machine
end

