-- ==== Sys2Proof/Machine/HexCodec.lean ====
section
/-!
DEFINITION. The hex codec (44_hex_codec.md): the commands B2H and H2B.
-/
namespace Sys2Proof.Machine

/-- L, the length of the text of `n` bytes (R155). -/
def hexLen (n : Nat) : Nat := if n = 0 then 0 else 3 * n - 1

/-- One byte of B2H's loop (R155): two digits, the high nibble first, and a space after every byte but the last. -/
def b2hByte (B : Nat → Byte) (n i : Nat) (m : Memory) : Memory :=
  let m := memWrite 1 (3 * i) (hexChar ((B i).extractLsb' 4 4)) m
  let m := memWrite 1 (3 * i + 1) (hexChar ((B i).extractLsb' 0 4)) m
  if i < n - 1 then memWrite 1 (3 * i + 2) space m else m

/-- The loop of B2H (R155). -/
def b2hLoop (B : Nat → Byte) (n : Nat) (m : Memory) : Memory := loop n (b2hByte B n) m

/-- EXEC of B2H (R155): the input must fit, then the text must fit (60_exceptions.md R187). -/
def runB2h (s : State) : Except CmdError State :=
  if s.capacity < s.len then .error .allocationFailure
  else if s.capacity < hexLen s.len then .error .allocationFailure
  else .ok (setOutput (b2hLoop (s.readByte .abuf) s.len s.bbuf) (hexLen s.len) s)

/-- B2H (R155). -/
def execB2h (s : State) : Host.Outcome State Fault Refusal := finish s (runB2h s)

/-- The loop of H2B (R156): byte i is the digits 2i and 2i+1, the first one the high nibble. -/
def h2bLoop (B : Nat → Byte) (bytes : Nat) (m : Memory) : Memory :=
  loop bytes (fun i m => memWrite 1 i (digit (B (2 * i)) ++ digit (B (2 * i + 1))) m) m

/-- EXEC of H2B (R156): capacity, then an even length, then the characters (60_exceptions.md R187). -/
def runH2b (s : State) : Except CmdError State :=
  if s.capacity < s.len then .error .allocationFailure
  else if s.len % 2 ≠ 0 then .error .invalidHexFormat
  else if hexText (s.readByte .abuf) s.len = false then .error .invalidHexFormat
  else .ok (setOutput (h2bLoop (s.readByte .abuf) (s.len / 2) s.bbuf) (s.len / 2) s)

/-- H2B (R156). -/
def execH2b (s : State) : Host.Outcome State Fault Refusal := finish s (runH2b s)

end Sys2Proof.Machine
end

