-- ==== Sys2Proof/Machine/KeySchedule.lean ====
section
/-!
DEFINITION. Key loading (42_key_schedule.md): the commands KEYHEX and KEYRAW, the only ways to set the key (R124).
-/
namespace Sys2Proof.Machine

/-- The word of the eight characters from `B[8j]` on (R121): the leftmost character is the most significant nibble. -/
def hexWord (B : Nat → Byte) (j : Nat) : Word :=
  loop 8 (fun i w => w.extractLsb' 0 28 ++ digit (B (8 * j + i))) 0#32

/-- KEY0 to KEY3 from 32 hexadecimal characters (R121). -/
def hexKey (B : Nat → Byte) : Key := ⟨hexWord B 0, hexWord B 1, hexWord B 2, hexWord B 3⟩

/-- KEY0 to KEY3 from 16 raw bytes, little-endian (R122, 20_memory.md R57). -/
def rawKey (B : Nat → Byte) : Key := ⟨memRead4 B 0, memRead4 B 4, memRead4 B 8, memRead4 B 12⟩

/-- EXEC of KEYHEX (R121): the length check comes first, then the characters (60_exceptions.md R187). -/
def runKeyhex (s : State) : Except CmdError State :=
  if s.len ≠ 32 then .error .invalidKeyFormat
  else if hexText (s.readByte .abuf) 32 = false then .error .invalidKeyFormat
  else .ok (setKey (hexKey (s.readByte .abuf)) s)

/-- KEYHEX (R121). -/
def execKeyhex (s : State) : Host.Outcome State Fault Refusal := finish s (runKeyhex s)

/-- KEYRAW (R122): MLEN is ignored, nothing can fail. -/
def execKeyraw (s : State) : Host.Outcome State Fault Refusal :=
  finish s (.ok (setKey (rawKey (s.readByte .abuf)) s))

end Sys2Proof.Machine
end

