-- ==== Sys2Proof/Machine/MessageCodec.lean ====
section
/-!
DEFINITION. Message padding and ECB splitting (43_message_codec.md): the commands PAD, MENC and MDEC. They neither read nor write
V0 and V1 (R143).
-/
namespace Sys2Proof.Machine

/-- The loop of PAD (R137): BBUF[i] takes byte i of the padded message. -/
def padLoop (B : Nat → Byte) (n : Nat) (m : Memory) : Memory :=
  loop (ceil8 n) (fun i m => memWrite 1 i (padded B n i) m) m

/-- The loop of MENC and MDEC (R136, R138, R139): block j of `T` goes through `f`, and its two words to bytes 8j to 8j+7. -/
def blockLoop (f : Word → Word → Word × Word) (T : Nat → Byte) (blocks : Nat) (m : Memory) : Memory :=
  loop blocks
    (fun j m =>
      let e := f (memRead4 T (8 * j)) (memRead4 T (8 * j + 4))
      memWrite 4 (8 * j + 4) e.2 (memWrite 4 (8 * j) e.1 m))
    m

/-- EXEC of PAD (R137). -/
def runPad (s : State) : Except CmdError State :=
  if s.capacity < s.len then .error .allocationFailure
  else .ok (setOutput (padLoop (s.readByte .abuf) s.len s.bbuf) (ceil8 s.len) s)

/-- PAD (R137). -/
def execPad (s : State) : Host.Outcome State Fault Refusal := finish s (runPad s)

/-- EXEC of MENC (R138). -/
def runMenc (s : State) : Except CmdError State :=
  if s.capacity < s.len then .error .allocationFailure
  else
    .ok (setOutput
      (blockLoop (fun v0 v1 => teaEnc v0 v1 s.key) (padded (s.readByte .abuf) s.len) (ceil8 s.len / 8) s.bbuf)
      (ceil8 s.len) s)

/-- MENC (R138). -/
def execMenc (s : State) : Host.Outcome State Fault Refusal := finish s (runMenc s)

/-- EXEC of MDEC (R139): capacity first, then the block length (60_exceptions.md R187); no truncation (R140). -/
def runMdec (s : State) : Except CmdError State :=
  if s.capacity < s.len then .error .allocationFailure
  else if s.len % 8 ≠ 0 then .error .invalidBlockLength
  else
    .ok (setOutput
      (blockLoop (fun v0 v1 => teaDec v0 v1 s.key) (s.readByte .abuf) (s.len / 8) s.bbuf)
      s.len s)

/-- MDEC (R139). -/
def execMdec (s : State) : Host.Outcome State Fault Refusal := finish s (runMdec s)

end Sys2Proof.Machine
end

