-- ==== Sys2Proof/Machine/Dispatch.lean ====
section
/-!
DEFINITION. The meaning of every command: one arm for each constructor of Instr (30_encoding.md R86, EXEC and completion).
-/
namespace Sys2Proof.Machine

def exec (i : Instr) (s : State) : Host.Outcome State Fault Refusal :=
  match i with
  | .nop => Sys2Proof.Machine.execNop s
  | .enc => Sys2Proof.Machine.execEnc s
  | .dec => Sys2Proof.Machine.execDec s
  | .keyhex => Sys2Proof.Machine.execKeyhex s
  | .keyraw => Sys2Proof.Machine.execKeyraw s
  | .pad => Sys2Proof.Machine.execPad s
  | .menc => Sys2Proof.Machine.execMenc s
  | .mdec => Sys2Proof.Machine.execMdec s
  | .b2h => Sys2Proof.Machine.execB2h s
  | .h2b => Sys2Proof.Machine.execH2b s
  | .illegal w => Sys2Proof.Machine.execIllegal w s

end Sys2Proof.Machine
end

