-- ==== Sys2Proof/Machine/Sequencer.lean ====
section
/-!
DEFINITION. The sequencer's turn (30_encoding.md R86, R87).
-/
namespace Sys2Proof.Machine

/-- While PHASE is busy, the completion step of the command in PEND (R86); while it is idle there is nothing to do. While the
reset input is held active every piece of state keeps its reset value (70_reset_and_hazards.md R210). -/
def sequencerTurn (s : State) : Host.Outcome State Fault Refusal :=
  if s.resetHeld then .next s
  else
    match s.phase with
    | .idle => .next s
    | .busy => exec (decodeWord s.pend) s

end Sys2Proof.Machine
end

