-- ==== Sys2Proof/Machine/Step.lean ====
section
/-!
DEFINITION. One step of the machine: the next input of `inputs` moves (log entry 4). When none is left, the sequencer takes its
turn, so a command in flight completes (30_encoding.md R87, weak fairness). TEA-CORE fetches nothing (20_memory.md R67): the word
it runs stands in PEND.
-/
namespace Sys2Proof.Machine

def step (s : State) : Host.Outcome State Fault Refusal :=
  match s.inputs with
  | [] => sequencerTurn s
  | .sequencer :: rest => sequencerTurn (setInputs rest s)
  | .access a :: rest =>
    if s.resetHeld then .fault .accessDuringReset else .next (hostStep a (setInputs rest s))
  | .resetAssert :: rest => .next (resetEvent (setInputs rest s))
  | .resetRelease :: rest => .next (releaseReset (setInputs rest s))

/-- `s` with a command word issued (30_encoding.md R85) and the sequencer's turn next, the reset input not held, so that the
next step runs that command. The bits of `w` above `nbits` count as 0 (log entries 11 and 17). -/
def State.withFetchWord (s : State) (nbits w : Nat) : State :=
  setInputs (.sequencer :: s.inputs) (releaseReset (issue (BitVec.ofNat 32 (w % 2 ^ nbits)) s))

end Sys2Proof.Machine
end

