-- ==== Sys2Proof/Machine/Script.lean ====
section
/-!
DEFINITION. Host scripts (30_encoding.md R89) and their pseudo-operations (R90) as lists of inputs. TEA-CORE has no assembler:
a script is a way to write the host's accesses.
-/
namespace Sys2Proof.Machine.Script

/-- `W <off>, <val>` (R89). -/
def W (off : Nat) (val : Word) : Input := .access ⟨.write, off, 4, val⟩

/-- `R <off>` (R89). -/
def R (off : Nat) : Input := .access ⟨.read, off, 4, 0⟩

/-- `CMD <mnemonic>` (R90). -/
def CMD (i : Instr) : List Input := [W 0x000 (encode i)]

/-- `WAIT` (R90) in a run in which `k` polls see BUSY = 1: under R87 that is any finite number. The sequencer's turn comes
after them, and the last poll sees BUSY = 0. -/
def WAIT (k : Nat) : List Input := List.replicate k (R 0x004) ++ [.sequencer, R 0x004]

/-- `LOADA <i>, "<bytes>"` (R90): words of four bytes, little-endian, a final short group filled with 0x00 bytes. -/
def LOADA (i : Nat) (bytes : List Byte) : List Input :=
  (List.range ((bytes.length + 3) / 4)).map
    (fun m => W (abufBase + i + 4 * m) (memRead4 (fun n => bytes.getD n 0) (4 * m)))

/-- `CLRST` (R90). -/
def CLRST : List Input := [W 0x004 0x00000006]

/-- `RUN <mnemonic>` (R90). -/
def RUN (i : Instr) (k : Nat) : List Input := CMD i ++ WAIT k

end Sys2Proof.Machine.Script
end

