-- ==== Sys2Proof/Safety.lean ====
section
/-!
DEFINITION. What the statements call legal, safe and unchanged: the legal values of STATUS (10_state.md R26), the machine's
invariant, and a step that is not a stop.
-/
namespace Sys2Proof.Machine

/-- The legal values of STATUS (10_state.md R26): BUSY = 1 implies DONE = 0, ERR = 0 and ECODE = 0; and ECODE is 0 exactly when
ERR = 0 (R26, 60_exceptions.md R180). -/
def State.statusLegal (s : State) : Prop :=
  (s.phase = .busy → s.done = false ∧ s.err = false ∧ s.ecode = none) ∧ (s.err = false ↔ s.ecode = none)

/-- The invariant: STATUS is legal, both buffers keep their canonical form within BUF_BYTES, OLEN is a length that fits, and no
command is in flight while reset is held. -/
def State.Inv (s : State) : Prop :=
  s.statusLegal ∧ s.abuf.wf s.capacity ∧ s.bbuf.wf s.capacity ∧ s.olen.toNat ≤ s.capacity ∧
    (s.resetHeld = true → s.phase = .idle)

/-- A step that is no stop. -/
def State.stepsOn (s : State) : Prop := ∃ t, step s = .next t

/-- `n` steps from `s`, stopping at the first stop. -/
def stepN (n : Nat) (s : State) : Host.Outcome State Fault Refusal :=
  match n with
  | 0 => .next s
  | k + 1 =>
    match step s with
    | .next t => stepN k t
    | .fault r => .fault r
    | .refused r => .refused r

/-- `s` with the status a command that succeeded leaves: DONE = 1, ERR = 0, ECODE = 0, PHASE = IDLE (30_encoding.md R86). -/
def State.succeeded (s : State) : State := { s with done := true, err := false, ecode := none, phase := .idle }

/-- `s` with the status a command that raised `c` leaves: DONE = 1, ERR = 1, ECODE = code(c), PHASE = IDLE (60_exceptions.md
R186). -/
def State.failedWith (c : CmdError) (s : State) : State :=
  { s with done := true, err := true, ecode := some c, phase := .idle }

/-- An access answered ERROR that changes nothing (20_memory.md R58). -/
def erroneous (s : State) (a : Access) : Prop := (access s a).1 = s ∧ (access s a).2.resp = .error

/-- How many bytes of ABUF a command may read (20_memory.md R63, 30_encoding.md R82): ABUF[0 .. this number - 1]. KEYHEX reads
bytes below MLEN (R63) and below 32 (42_key_schedule.md R121). -/
def operandBytes (i : Instr) (s : State) : Nat :=
  match i with
  | .keyhex => min 32 s.mlen.toNat
  | .keyraw => 16
  | .pad | .menc | .mdec | .b2h | .h2b => s.mlen.toNat
  | .nop | .enc | .dec | .illegal _ => 0

/-- The number that `n` hexadecimal digits from `B start` on write in base 16, the leftmost digit most significant. -/
def hexNumber (B : Nat → Byte) (start n : Nat) : Nat :=
  (List.range n).foldl (fun a i => 16 * a + (digit (B (start + i))).toNat) 0

/-- The message of `s` with the zeros of its padding (43_message_codec.md R137, R138): byte `i` of T. -/
def paddedByte (s : State) (i : Nat) : Byte := if i < s.mlen.toNat then s.readByte .abuf i else 0

/-- The offset of a buffer's window (20_memory.md R51). -/
def windowOf : Buf → Nat
  | .abuf => 0x1000
  | .bbuf => 0x2000

end Sys2Proof.Machine
end

