-- ==== Sys2Proof/Certificates/Slice0/Obligations.lean ====
section
/-!
DEFINITION. The statements for the provers, one definition each. A docstring cites the rule of the spec a statement formalises;
where it rests on a choice of the model it names the log entry.
-/

open Sys2Proof Sys2Proof.Machine

/-! ### Encoding -/

/-- 30_encoding.md R84: the decoder is total, with this table and no other case. -/
def Obligations.DecoderIsTheOpcodeMap : Prop :=
  decodeWord 0x0 = .nop ∧ decodeWord 0x1 = .enc ∧ decodeWord 0x2 = .dec ∧ decodeWord 0x3 = .keyhex ∧
    decodeWord 0x4 = .keyraw ∧ decodeWord 0x5 = .pad ∧ decodeWord 0x6 = .menc ∧ decodeWord 0x7 = .mdec ∧
    decodeWord 0x8 = .b2h ∧ decodeWord 0x9 = .h2b ∧ ∀ w : Word, 0x9#32 < w → decodeWord w = .illegal w

/-- A few command words as the four bytes the host's word is made of (30_encoding.md R81, 20_memory.md R57), one of each family,
and a reserved word whose low nibble names a command. -/
def Obligations.SampleCommandBytesDecode : Prop :=
  decode [0x00, 0x00, 0x00, 0x00] = .ok (.nop, []) ∧
    decode [0x01, 0x00, 0x00, 0x00] = .ok (.enc, []) ∧
    decode [0x03, 0x00, 0x00, 0x00] = .ok (.keyhex, []) ∧
    decode [0x07, 0x00, 0x00, 0x00, 0x05] = .ok (.mdec, [0x05]) ∧
    decode [0x09, 0x00, 0x00, 0x00] = .ok (.h2b, []) ∧
    decode [0x11, 0x00, 0x00, 0x00] = .ok (.illegal 0x00000011, []) ∧
    decode [0x01, 0x00, 0x00, 0x80] = .ok (.illegal 0x80000001, [])

/-- Decode and encode agree: the bytes of every well-formed command decode to that command and leave the bytes after it
(30_encoding.md R80, R81, R83; the order of the bytes is log entry 16). -/
def Obligations.DecodeOfEncodeIsTheCommand : Prop :=
  ∀ (i : Instr) (rest : List Byte), i.wf = true → decode (encodeBytes i ++ rest) = .ok (i, rest)

/-- Every one of the 2^32 words decodes to a well-formed command (30_encoding.md R83, R84), and is the word of that command. That
no two reserved words share a command term is the model's choice (log entry 12: ILLEGAL carries its word); R84 sends them all to
one ILLEGAL. -/
def Obligations.EncodeOfDecodeIsTheWord : Prop :=
  ∀ w : Word, (decodeWord w).wf = true ∧ encode (decodeWord w) = w

/-- The rows of the opcode table, as masks and patterns, part the 2^32 words: exactly one row holds a word, and its mnemonic is
the decoder's (30_encoding.md R81, R83, R84; opcode_table.json). -/
def Obligations.OpcodeTableRowsPartTheWords : Prop :=
  ∀ w : Word, (opcodeTable.filter (fun r => r.holds w)).map OpcodeRow.mnemonic = [(decodeWord w).mnemonic]

/-- Fewer than four bytes hold no command (30_encoding.md R80); log entry 16. -/
def Obligations.ShortByteStringsHoldNoCommand : Prop :=
  ∀ l : List Byte, l.length < 4 ↔ decode l = .error .truncated

/-! ### The step and the life of a command -/

/-- A step runs the decoded command: while PHASE is busy and reset is not held, the sequencer's turn is the completion step of
the command in PEND (30_encoding.md R86). It moves when it is the next input, and when no input is left (log entry 4). -/
def Obligations.StepRunsTheCommandInPend : Prop :=
  ∀ (s : State) (i : Instr) (rest : List Input), s.resetHeld = false → s.phase = .busy → i.wf = true →
    decode (bytesOfWord s.pend) = .ok (i, []) →
      (s.inputs = [] → step s = exec i s) ∧
      (s.inputs = .sequencer :: rest → step s = exec i { s with inputs := rest })

/-- All state is kept while idle (60_exceptions.md R200) and while reset is held: the sequencer's turn does nothing (log entry
13). -/
def Obligations.IdleSequencerKeepsAllState : Prop :=
  ∀ (s : State) (rest : List Input), s.phase = .idle ∨ s.resetHeld = true →
    (s.inputs = [] → step s = .next s) ∧
      (s.inputs = .sequencer :: rest → step s = .next { s with inputs := rest })

/-- A step that performs a host access: its effect on the state, and its reply (20_memory.md R50). The lists of inputs and
replies are the model's (log entries 4 and 10). -/
def Obligations.StepPerformsTheHostAccess : Prop :=
  ∀ (s : State) (a : Access) (rest : List Input), s.inputs = .access a :: rest → s.resetHeld = false →
    step s = .next { (access s a).1 with inputs := rest, replies := (access s a).2 :: s.replies }

/-- 30_encoding.md R85: an admitted WRITE to CMD happens only when idle; it clears STATUS, takes the word into PEND and makes
PHASE busy. irq drops to 0, STATUS.BUSY reads 1, and no other state changes. -/
def Obligations.IssueOfACommand : Prop :=
  ∀ (s : State) (w : Word),
    (s.phase = .idle →
      ∃ t, access s ⟨.write, 0x000, 4, w⟩ = (t, ⟨.okay, none⟩) ∧
        t = { s with done := false, err := false, ecode := none, pend := w, phase := .busy } ∧
        t.irq = false ∧ t.statusWord = 0x00000001) ∧
    (s.phase = .busy → erroneous s ⟨.write, 0x000, 4, w⟩)

/-- 60_exceptions.md R186: every command completes; an error discards every register and buffer write, so the state is the
pre-issue state but for ERR = 1, ECODE = code, DONE = 1 and PHASE = IDLE, and irq rises if DONEIE = 1; without one, ERR = 0 and
ECODE = 0. -/
def Obligations.CommandErrorsAreAllOrNothing : Prop :=
  ∀ (i : Instr) (s : State), ∃ t, exec i s = .next t ∧ t.done = true ∧ t.phase = .idle ∧ t.irq = s.doneie ∧
    (t.err = true → ∃ c, t = s.failedWith c) ∧ (t.err = false → t.ecode = none)

/-- The frame of all commands (10_state.md R21 to R24, R28 to R31): what no command changes, and which commands change the
registers and BBUF. -/
def Obligations.CommandsChangeOnlyTheirResults : Prop :=
  ∀ (i : Instr) (s t : State), exec i s = .next t →
    (t.doneie = s.doneie ∧ t.mlen = s.mlen ∧ t.abuf = s.abuf ∧ t.pend = s.pend ∧ t.resetHeld = s.resetHeld ∧
      t.bufBytes = s.bufBytes ∧ t.resets = s.resets ∧ t.inputs = s.inputs ∧ t.replies = s.replies) ∧
    (∀ a, t.readByte .abuf a = s.readByte .abuf a) ∧
    (t.v0 ≠ s.v0 ∨ t.v1 ≠ s.v1 → i = .enc ∨ i = .dec) ∧
    (t.key ≠ s.key → i = .keyhex ∨ i = .keyraw) ∧
    (t.olen ≠ s.olen ∨ (∃ a, t.readByte .bbuf a ≠ s.readByte .bbuf a) →
      (i = .pad ∨ i = .menc ∨ i = .mdec ∨ i = .b2h ∨ i = .h2b) ∧ t.err = false)

/-- A command's whole effect takes place at its completion step, whatever accesses the host makes before it (20_memory.md R60,
R64, R67; 30_encoding.md R86, R87): the result is the one of the operands in place at issue; only INTEN and the replies tell of
the accesses between. -/
def Obligations.AccessesWhileBusyDoNotReachTheResult : Prop :=
  ∀ (s : State) (accesses : List Access) (rest : List Input), s.resetHeld = false → s.phase = .busy →
    s.inputs = accesses.map Input.access ++ .sequencer :: rest →
      ∃ t u, stepN (accesses.length + 1) s = .next t ∧ exec (decodeWord s.pend) s = .next u ∧
        t = { u with doneie := t.doneie, inputs := rest, replies := t.replies }

/-- The pseudo-operation RUN (30_encoding.md R90) with any number `k` of polls that see BUSY = 1 (R87): it ends with the state
the command leaves after its issue, every poll but the last answered 0x00000001 and the last one with the final STATUS. -/
def Obligations.RunEndsWithTheCommandsResult : Prop :=
  ∀ (s : State) (i : Instr) (k : Nat) (rest : List Input), s.resetHeld = false → s.phase = .idle → i.wf = true →
    s.inputs = Script.RUN i k ++ rest →
      ∃ u, exec i (issue (encode i) s) = .next u ∧
        stepN (k + 3) s =
          .next { u with
            inputs := rest
            replies := ⟨.okay, some u.statusWord⟩ ::
              (List.replicate k ⟨.okay, some 0x00000001⟩ ++ ⟨.okay, none⟩ :: s.replies) }

/-- 70_reset_and_hazards.md R219: every issued command completes, unless reset intervenes. The bound is the number of inputs
still to come, and one step (log entry 4). -/
def Obligations.IssuedCommandsComplete : Prop :=
  ∀ s : State, s.resetHeld = false → s.phase = .busy → Input.resetAssert ∉ s.inputs →
    ∃ (k : Nat) (t : State), k ≤ s.inputs.length + 1 ∧ stepN k s = .next t ∧ t.phase = .idle ∧ t.done = true

/-- No step is refused, and a step stops only at a host access while the reset input is held (70_reset_and_hazards.md R212; the
fault stands for the spec's "no step", log entry 8). -/
def Obligations.StepStopsOnlyAtAnAccessDuringReset : Prop :=
  ∀ s : State,
    s.stepsOn ∨
      (s.resetHeld = true ∧ (∃ a rest, s.inputs = .access a :: rest) ∧ step s = .fault .accessDuringReset)

/-! ### Invariants -/

/-- The invariant holds after reset. -/
def Obligations.InvariantHoldsAtReset : Prop := State.reset.Inv

/-- Every step keeps the invariant: the legal values of STATUS (10_state.md R26), the canonical form of both buffers within
BUF_BYTES, an output length that fits (60_exceptions.md R183), and no command in flight while reset is held. -/
def Obligations.EveryStepKeepsTheInvariant : Prop :=
  ∀ s t : State, s.Inv → step s = .next t → t.Inv

/-- 42_key_schedule.md R124: no step changes the key but the completion step of a KEYHEX or KEYRAW in PEND, which is the
sequencer's turn, makes PHASE idle and leaves the key that command gives, and reset, which makes the key zero; a host write gets
ERROR and a host read while idle gives the key word. -/
def Obligations.KeyIsSetByKeyCommandsAlone : Prop :=
  (∀ s t : State, step s = .next t → t.key ≠ s.key →
    ((∃ rest, s.inputs = .resetAssert :: rest) ∧ t.key = ⟨0, 0, 0, 0⟩) ∨
      ((s.inputs = [] ∨ ∃ rest, s.inputs = .sequencer :: rest) ∧ s.phase = .busy ∧ s.resetHeld = false ∧
        t.phase = .idle ∧ t.done = true ∧ t.err = false ∧
        (decodeWord s.pend = .keyhex ∨ decodeWord s.pend = .keyraw) ∧
        ∃ u, exec (decodeWord s.pend) s = .next u ∧ t.key = u.key)) ∧
  ∀ (s : State) (w : Word),
    (∀ off, off = 0x020 ∨ off = 0x024 ∨ off = 0x028 ∨ off = 0x02C → erroneous s ⟨.write, off, 4, w⟩) ∧
    (s.phase = .idle →
      access s ⟨.read, 0x020, 4, w⟩ = (s, ⟨.okay, some s.key.k0⟩) ∧
      access s ⟨.read, 0x024, 4, w⟩ = (s, ⟨.okay, some s.key.k1⟩) ∧
      access s ⟨.read, 0x028, 4, w⟩ = (s, ⟨.okay, some s.key.k2⟩) ∧
      access s ⟨.read, 0x02C, 4, w⟩ = (s, ⟨.okay, some s.key.k3⟩))

/-- No step changes BUF_BYTES (00_scope.md R6; log entry 5). -/
def Obligations.BufBytesNeverChanges : Prop :=
  ∀ s t : State, step s = .next t → t.bufBytes = s.bufBytes

/-! ### Reset -/

/-- 10_state.md R36: the state after reset. (PEND is unspecified; BUF_BYTES is a parameter.) -/
def Obligations.ResetStateValues : Prop :=
  State.reset.phase = .idle ∧ State.reset.statusWord = 0x00000000 ∧ State.reset.intenWord = 0x00000000 ∧
    State.reset.mlen = 0x00000000 ∧ State.reset.olen = 0x00000000 ∧
    State.reset.key = ⟨0x00000000, 0x00000000, 0x00000000, 0x00000000⟩ ∧
    State.reset.v0 = 0x00000000 ∧ State.reset.v1 = 0x00000000 ∧
    (∀ b i, State.reset.readByte b i = Config.drawByte 0 b i) ∧ State.reset.irq = false

/-- 70_reset_and_hazards.md R210 with the values of 10_state.md R36: reset is one step in any state; it abandons a command in
flight, and every piece of state takes its reset value; every buffer byte is a draw of this reset (log entry 2). -/
def Obligations.ResetInAnyState : Prop :=
  ∀ (s : State) (rest : List Input), s.inputs = .resetAssert :: rest →
    ∃ t, step s = .next t ∧ t.phase = .idle ∧ t.statusWord = 0x00000000 ∧ t.intenWord = 0x00000000 ∧
      t.mlen = 0x00000000 ∧ t.olen = 0x00000000 ∧ t.key = ⟨0x00000000, 0x00000000, 0x00000000, 0x00000000⟩ ∧
      t.v0 = 0x00000000 ∧ t.v1 = 0x00000000 ∧ t.irq = false ∧
      (∀ b i, t.readByte b i = Config.drawByte (s.resets + 1) b i) ∧
      t.resetHeld = true ∧ t.inputs = rest ∧ t.replies = s.replies

/-- 70_reset_and_hazards.md R212: while reset is held an access has no step (the model's fault, log entry 8); the end of reset
changes nothing else, and after it accesses are handled as ever. -/
def Obligations.NoAccessWhileResetIsHeld : Prop :=
  ∀ (s : State) (rest : List Input),
    (∀ a, s.resetHeld = true → s.inputs = .access a :: rest → step s = .fault .accessDuringReset) ∧
    (s.inputs = .resetRelease :: rest → step s = .next { s with resetHeld := false, inputs := rest })

/-! ### The host port -/

/-- 20_memory.md R59: the admission table while idle. -/
def Obligations.IdleAdmissionTable : Prop :=
  ∀ s : State, s.phase = .idle →
    (∀ w,
      access s ⟨.read, 0x000, 4, w⟩ = (s, ⟨.okay, some 0x00000000⟩) ∧
      access s ⟨.read, 0x004, 4, w⟩ = (s, ⟨.okay, some s.statusWord⟩) ∧
      access s ⟨.read, 0x008, 4, w⟩ = (s, ⟨.okay, some s.intenWord⟩) ∧
      access s ⟨.read, 0x00C, 4, w⟩ = (s, ⟨.okay, some s.mlen⟩) ∧
      access s ⟨.read, 0x010, 4, w⟩ = (s, ⟨.okay, some s.olen⟩) ∧
      access s ⟨.read, 0x020, 4, w⟩ = (s, ⟨.okay, some s.key.k0⟩) ∧
      access s ⟨.read, 0x024, 4, w⟩ = (s, ⟨.okay, some s.key.k1⟩) ∧
      access s ⟨.read, 0x028, 4, w⟩ = (s, ⟨.okay, some s.key.k2⟩) ∧
      access s ⟨.read, 0x02C, 4, w⟩ = (s, ⟨.okay, some s.key.k3⟩) ∧
      access s ⟨.read, 0x030, 4, w⟩ = (s, ⟨.okay, some s.v0⟩) ∧
      access s ⟨.read, 0x034, 4, w⟩ = (s, ⟨.okay, some s.v1⟩) ∧
      (∀ b i, i % 4 = 0 → i + 4 ≤ s.capacity →
        access s ⟨.read, windowOf b + i, 4, w⟩ = (s, ⟨.okay, some (memRead4 (s.readByte b) i)⟩))) ∧
    (∀ w,
      access s ⟨.write, 0x000, 4, w⟩ =
        ({ s with done := false, err := false, ecode := none, pend := w, phase := .busy }, ⟨.okay, none⟩) ∧
      access s ⟨.write, 0x004, 4, w⟩ =
        ({ s with
            done := s.done && !w.getLsbD 1
            err := s.err && !w.getLsbD 2
            ecode := if w.getLsbD 2 then none else s.ecode }, ⟨.okay, none⟩) ∧
      access s ⟨.write, 0x008, 4, w⟩ = ({ s with doneie := w.getLsbD 0 }, ⟨.okay, none⟩) ∧
      access s ⟨.write, 0x00C, 4, w⟩ = ({ s with mlen := w }, ⟨.okay, none⟩) ∧
      erroneous s ⟨.write, 0x010, 4, w⟩ ∧
      erroneous s ⟨.write, 0x020, 4, w⟩ ∧ erroneous s ⟨.write, 0x024, 4, w⟩ ∧
      erroneous s ⟨.write, 0x028, 4, w⟩ ∧ erroneous s ⟨.write, 0x02C, 4, w⟩ ∧
      access s ⟨.write, 0x030, 4, w⟩ = ({ s with v0 := w }, ⟨.okay, none⟩) ∧
      access s ⟨.write, 0x034, 4, w⟩ = ({ s with v1 := w }, ⟨.okay, none⟩) ∧
      (∀ i, i % 4 = 0 → i + 4 ≤ s.capacity →
        access s ⟨.write, 0x1000 + i, 4, w⟩ = ({ s with abuf := memWrite 4 i w s.abuf }, ⟨.okay, none⟩) ∧
        access s ⟨.write, 0x2000 + i, 4, w⟩ = ({ s with bbuf := memWrite 4 i w s.bbuf }, ⟨.okay, none⟩))) ∧
    (∀ b i, (s.buf b).find i = none → s.readByte b i = Config.drawByte s.resets b i)

/-- 20_memory.md R60: while busy only a READ of STATUS, a READ of INTEN and a WRITE of INTEN are admitted, and every other access
gets ERROR and changes nothing. -/
def Obligations.BusyAdmitsThreeAccesses : Prop :=
  ∀ s : State, s.phase = .busy →
    (∀ w,
      access s ⟨.read, 0x004, 4, w⟩ = (s, ⟨.okay, some s.statusWord⟩) ∧ s.statusWord.getLsbD 0 = true ∧
      access s ⟨.read, 0x008, 4, w⟩ = (s, ⟨.okay, some s.intenWord⟩) ∧
      access s ⟨.write, 0x008, 4, w⟩ = ({ s with doneie := w.getLsbD 0 }, ⟨.okay, none⟩)) ∧
    ∀ a : Access,
      ¬ (a.size = 4 ∧ (a.kind = .read ∧ (a.offset = 0x004 ∨ a.offset = 0x008) ∨ a.kind = .write ∧ a.offset = 0x008)) →
        erroneous s a

/-- 20_memory.md R53, R54 and R58: another size or a misaligned offset gets ERROR, and an access answered ERROR, for whatever
cause, changes no state, irq included. -/
def Obligations.ErrorResponsesChangeNothing : Prop :=
  ∀ (s : State) (a : Access),
    (a.size ≠ 4 → erroneous s a) ∧ (a.offset % 4 ≠ 0 → erroneous s a) ∧
      ((access s a).2.resp = .error → (access s a).1 = s ∧ (access s a).1.irq = s.irq)

/-- 20_memory.md R55: reserved offsets and offsets from 0x3000 on get ERROR; reserved bits read as zero, and writing them has no
effect. -/
def Obligations.ReservedOffsetsAndBits : Prop :=
  (∀ (s : State) (a : Access),
    (0x014 ≤ a.offset ∧ a.offset ≤ 0x01F ∨ 0x038 ≤ a.offset ∧ a.offset ≤ 0x0FFF ∨ 0x3000 ≤ a.offset) →
      erroneous s a) ∧
  (∀ (s : State), s.statusWord.getLsbD 3 = false ∧ (∀ j, 8 ≤ j → s.statusWord.getLsbD j = false) ∧
    (∀ j, 1 ≤ j → s.intenWord.getLsbD j = false)) ∧
  ∀ (s : State) (v w : Word),
    (v.getLsbD 1 = w.getLsbD 1 → v.getLsbD 2 = w.getLsbD 2 →
      access s ⟨.write, 0x004, 4, v⟩ = access s ⟨.write, 0x004, 4, w⟩) ∧
    (v.getLsbD 0 = w.getLsbD 0 → access s ⟨.write, 0x008, 4, v⟩ = access s ⟨.write, 0x008, 4, w⟩)

/-- 20_memory.md R56: an aligned word of a window is admitted (while idle) exactly when it lies inside the buffer, and reaches
the bytes i to i+3 of that buffer and no other byte. -/
def Obligations.BufferWindowWords : Prop :=
  ∀ (s : State) (b : Buf) (i : Nat) (w : Word), s.phase = .idle → i % 4 = 0 → i < 0x1000 →
    (i + 4 ≤ s.capacity →
      (∃ v, access s ⟨.read, windowOf b + i, 4, w⟩ = (s, ⟨.okay, some v⟩) ∧
        ∀ k, k < 4 → v.extractLsb' (8 * k) 8 = s.readByte b (i + k)) ∧
      (∃ t, access s ⟨.write, windowOf b + i, 4, w⟩ = (t, ⟨.okay, none⟩) ∧
        (∀ k, k < 4 → t.readByte b (i + k) = w.extractLsb' (8 * k) 8) ∧
        (∀ c j, ¬ (c = b ∧ i ≤ j ∧ j < i + 4) → t.readByte c j = s.readByte c j) ∧
        t = { s with abuf := t.abuf, bbuf := t.bbuf })) ∧
    (s.capacity < i + 4 →
      s.capacity ≤ i ∧ erroneous s ⟨.read, windowOf b + i, 4, w⟩ ∧ erroneous s ⟨.write, windowOf b + i, 4, w⟩)

/-- 00_scope.md R10: MemRead and MemWrite, little-endian. -/
def Obligations.MemReadAndMemWriteAreLittleEndian : Prop :=
  (∀ (B : Nat → Byte) (i : Nat),
    (memRead4 B i).toNat =
      (B i).toNat + 2 ^ 8 * (B (i + 1)).toNat + 2 ^ 16 * (B (i + 2)).toNat + 2 ^ 24 * (B (i + 3)).toNat ∧
    (memRead8 B i).toNat = (memRead4 B i).toNat + 2 ^ 32 * (memRead4 B (i + 4)).toNat) ∧
  ∀ (m : Memory) (n i a : Nat) (v : BitVec (8 * n)),
    (memWrite n i v m).find a =
      if i ≤ a ∧ a < i + n then some (v.extractLsb' (8 * (a - i)) 8) else m.find a

/-- Every admitted register or buffer WRITE while idle is seen by the next access (70_reset_and_hazards.md R217): a READ of the
same place gives the word written. -/
def Obligations.HostReadsWhatItWrote : Prop :=
  ∀ (s t : State) (off : Nat) (w v : Word), s.phase = .idle →
    off = 0x00C ∨ off = 0x030 ∨ off = 0x034 ∨ 0x1000 ≤ off →
    access s ⟨.write, off, 4, w⟩ = (t, ⟨.okay, none⟩) →
      access t ⟨.read, off, 4, v⟩ = (t, ⟨.okay, some w⟩)

/-- 10_state.md R26: the fields of STATUS, and its write-1-to-clear. -/
def Obligations.StatusFieldsAndClearing : Prop :=
  (∀ s : State,
    s.statusWord.toNat =
      (if s.phase = .busy then 1 else 0) + (if s.done then 2 else 0) + (if s.err then 4 else 0) +
        16 * (match s.ecode with
          | none => 0
          | some .invalidKeyFormat => 1
          | some .invalidHexFormat => 2
          | some .invalidBlockLength => 3
          | some .allocationFailure => 4
          | some .illegalCommand => 5)) ∧
  ∀ (s : State) (w : Word), s.phase = .idle →
    ∃ t, access s ⟨.write, 0x004, 4, w⟩ = (t, ⟨.okay, none⟩) ∧
      t = { s with done := t.done, err := t.err, ecode := t.ecode } ∧
      t.done = (if w.getLsbD 1 then false else s.done) ∧
      (w.getLsbD 2 = true → t.err = false ∧ t.ecode = none) ∧
      (w.getLsbD 2 = false → t.err = s.err ∧ t.ecode = s.ecode)

/-- 60_exceptions.md R191: irq is DONEIE and DONE at every instant; it rises only when a command completes with DONEIE = 1 or
when DONEIE is set while DONE = 1, and in both cases it does rise. -/
def Obligations.IrqRisesOnlyOnCompletionOrEnable : Prop :=
  (∀ s : State, s.irq = (s.doneie && s.done)) ∧
  (∀ s t : State, step s = .next t → s.irq = false → t.irq = true →
    (s.phase = .busy ∧ t.phase = .idle ∧ s.doneie = true) ∨
      (s.done = true ∧ ∃ w rest, s.inputs = .access ⟨.write, 0x008, 4, w⟩ :: rest ∧ w.getLsbD 0 = true)) ∧
  (∀ (i : Instr) (s : State), s.doneie = true → ∃ t, exec i s = .next t ∧ t.irq = true) ∧
  ∀ (s : State) (w : Word), s.done = true → w.getLsbD 0 = true → (access s ⟨.write, 0x008, 4, w⟩).1.irq = true

/-- 60_exceptions.md R192: the three ways to clear the interrupt, and the way to disable it, which leaves DONE as it is; DONE set
again behind a mask is still pending when the mask is lifted. -/
def Obligations.IrqIsClearedOrDisabled : Prop :=
  (∀ (s : State) (w : Word), s.phase = .idle → w.getLsbD 1 = true → (access s ⟨.write, 0x004, 4, w⟩).1.irq = false) ∧
  (∀ (s : State) (w : Word), s.phase = .idle → (access s ⟨.write, 0x000, 4, w⟩).1.irq = false) ∧
  (∀ (s t : State) (rest : List Input), s.inputs = .resetAssert :: rest → step s = .next t → t.irq = false) ∧
  (∀ s : State, ∃ t, access s ⟨.write, 0x008, 4, 0⟩ = (t, ⟨.okay, none⟩) ∧ t.irq = false ∧ t.done = s.done ∧
    (access t ⟨.write, 0x008, 4, 1⟩).1.irq = s.done)

/-! ### Block cipher -/

/-- 41_block_cipher.md R101: the mixing function in numbers, and the rule's example. -/
def Obligations.MixingFunction : Prop :=
  (∀ x s a b : Word,
    (mixF x s a b).toNat =
      ((x.toNat * 2 ^ 4 % 2 ^ 32 + a.toNat) % 2 ^ 32) ^^^ ((x.toNat + s.toNat) % 2 ^ 32) ^^^
        ((x.toNat / 2 ^ 5 + b.toNat) % 2 ^ 32)) ∧
  mixF 0x9E3779B9 0x9E3779B9 0 0 = 0xDBE8D32F

/-- 41_block_cipher.md R102: TEA_ENC is 32 rounds; in round r the sum is r times DELTA, the v0 line uses k0, k1 and the v1 line
k2, k3 and the v0 just updated. -/
def Obligations.TeaEncIsThirtyTwoRounds : Prop :=
  ∀ (v0 v1 : Word) (k : Key), ∃ a b : Nat → Word, a 0 = v0 ∧ b 0 = v1 ∧
    (∀ r, r < 32 →
      a (r + 1) = a r + mixF (b r) (BitVec.ofNat 32 ((r + 1) * 0x9E3779B9)) k.k0 k.k1 ∧
      b (r + 1) = b r + mixF (a (r + 1)) (BitVec.ofNat 32 ((r + 1) * 0x9E3779B9)) k.k2 k.k3) ∧
    teaEnc v0 v1 k = (a 32, b 32)

/-- 41_block_cipher.md R103 and R104: TEA_DEC is 32 rounds from the sum 0xC6EF3720 down to 0, v1 first with v0 as it stands, then
v0 with the v1 just updated. -/
def Obligations.TeaDecIsThirtyTwoRounds : Prop :=
  ∀ (v0 v1 : Word) (k : Key), ∃ a b sum : Nat → Word, a 0 = v0 ∧ b 0 = v1 ∧ sum 0 = 0xC6EF3720 ∧
    (∀ r, r < 32 →
      b (r + 1) = b r - mixF (a r) (sum r) k.k2 k.k3 ∧
      a (r + 1) = a r - mixF (b (r + 1)) (sum r) k.k0 k.k1 ∧
      sum (r + 1) = sum r - 0x9E3779B9) ∧
    sum 0 = BitVec.ofNat 32 (0x9E3779B9 * 32) ∧ sum 32 = 0 ∧ teaDec v0 v1 k = (a 32, b 32)

/-- 41_block_cipher.md R107: decryption undoes encryption, for every block and key; and ENC followed by DEC, with no key load
between, restores V0 and V1. -/
def Obligations.DecUndoesEnc : Prop :=
  (∀ (v0 v1 : Word) (k : Key), teaDec (teaEnc v0 v1 k).1 (teaEnc v0 v1 k).2 k = (v0, v1)) ∧
  ∀ s : State, ∃ t u, exec .enc s = .next t ∧ exec .dec (issue 0x00000002 t) = .next u ∧ u.v0 = s.v0 ∧ u.v1 = s.v1

/-- Encryption undoes decryption, so a key permutes the blocks: DEC of a block that ENC never produced still gives a defined
result, which ENC takes back (41_block_cipher.md R106, R107). -/
def Obligations.EncUndoesDec : Prop :=
  ∀ (v0 v1 : Word) (k : Key), teaEnc (teaDec v0 v1 k).1 (teaDec v0 v1 k).2 k = (v0, v1)

/-- Vectors B1, B8 and B11 of 95_test_vectors.md section 2.1. -/
def Obligations.BlockCipherVectors : Prop :=
  teaEnc 0 0 ⟨0, 0, 0, 0⟩ = (0x41EA3A0A, 0x94BAA940) ∧
    teaEnc 0x4C4C4548 0x0000004F ⟨0x33323130, 0x37363534, 0x42413938, 0x46454443⟩ = (0x841C699C, 0xB7F85A62) ∧
    teaDec 0x12345678 0x9ABCDEF0 ⟨0xDEADBEEF, 0x01020304, 0xCAFEBABE, 0x0BADF00D⟩ = (0xC727FA85, 0x7D06241A)

/-- 41_block_cipher.md R105: ENC, whole: its word, its result, its flags, and that nothing else changes. -/
def Obligations.EncCommand : Prop :=
  decodeWord 0x00000001 = .enc ∧
  ∀ s : State, ∃ t, exec .enc s = .next t ∧
    t = State.succeeded { s with v0 := (teaEnc s.v0 s.v1 s.key).1, v1 := (teaEnc s.v0 s.v1 s.key).2 } ∧
    (s.key = ⟨0, 0, 0, 0⟩ → s.v0 = 0 → s.v1 = 0 → t.v0 = 0x41EA3A0A ∧ t.v1 = 0x94BAA940)

/-- 41_block_cipher.md R106: DEC, whole. -/
def Obligations.DecCommand : Prop :=
  decodeWord 0x00000002 = .dec ∧
  ∀ s : State, ∃ t, exec .dec s = .next t ∧
    t = State.succeeded { s with v0 := (teaDec s.v0 s.v1 s.key).1, v1 := (teaDec s.v0 s.v1 s.key).2 } ∧
    (s.key = ⟨0, 0, 0, 0⟩ → s.v0 = 0x41EA3A0A → s.v1 = 0x94BAA940 → t.v0 = 0 ∧ t.v1 = 0)

/-- 41_block_cipher.md R108: ENC and DEC are functions of the block and the key alone. -/
def Obligations.BlockCommandsDependOnBlockAndKeyAlone : Prop :=
  ∀ (i : Instr) (s s' : State), i = .enc ∨ i = .dec → s'.v0 = s.v0 → s'.v1 = s.v1 → s'.key = s.key →
    ∃ t t', exec i s = .next t ∧ exec i s' = .next t' ∧ t'.v0 = t.v0 ∧ t'.v1 = t.v1

/-! ### Control -/

/-- 45_control.md R170: NOP changes STATUS alone, to 0x00000002. -/
def Obligations.NopCommand : Prop :=
  decodeWord 0x00000000 = .nop ∧
  ∀ s : State, ∃ t, exec .nop s = .next t ∧ t = s.succeeded ∧ t.statusWord = 0x00000002

/-- 45_control.md R171: every reserved word raises IllegalCommand when it completes, STATUS is 0x00000056, and nothing but STATUS
changes. -/
def Obligations.ReservedWordsAreIllegal : Prop :=
  ∀ w : Word, 0x9#32 < w →
    decodeWord w = .illegal w ∧
    ∀ s : State, ∃ t, exec (.illegal w) s = .next t ∧ t = s.failedWith .illegalCommand ∧ t.statusWord = 0x00000056

/-! ### Key loading -/

/-- 00_scope.md R13: the digit functions. -/
def Obligations.HexDigitFunctions : Prop :=
  (∀ c : Byte,
    (0x30 ≤ c.toNat ∧ c.toNat ≤ 0x39 → (hexVal c).map BitVec.toNat = some (c.toNat - 0x30)) ∧
    (0x41 ≤ c.toNat ∧ c.toNat ≤ 0x46 → (hexVal c).map BitVec.toNat = some (c.toNat - 0x41 + 10)) ∧
    (0x61 ≤ c.toNat ∧ c.toNat ≤ 0x66 → (hexVal c).map BitVec.toNat = some (c.toNat - 0x61 + 10)) ∧
    (¬ (0x30 ≤ c.toNat ∧ c.toNat ≤ 0x39) → ¬ (0x41 ≤ c.toNat ∧ c.toNat ≤ 0x46) →
      ¬ (0x61 ≤ c.toNat ∧ c.toNat ≤ 0x66) → hexVal c = none)) ∧
  ∀ d : Nibble,
    (d.toNat ≤ 9 → (hexChar d).toNat = 0x30 + d.toNat) ∧
    (9 < d.toNat → (hexChar d).toNat = 0x41 + (d.toNat - 10))

/-- 42_key_schedule.md R121: KEYHEX, whole: each key word is the number its eight characters write in base 16; a length other
than 32 or a character that is no digit gives InvalidKeyFormat and changes nothing but STATUS. -/
def Obligations.KeyhexCommand : Prop :=
  decodeWord 0x00000003 = .keyhex ∧
  ∀ s : State,
    (s.mlen.toNat = 32 → (∀ i, i < 32 → (hexVal (s.readByte .abuf i)).isSome = true) →
      ∃ t, exec .keyhex s = .next t ∧ t = State.succeeded { s with key := t.key } ∧
        t.key.k0.toNat = hexNumber (s.readByte .abuf) 0 8 ∧ t.key.k1.toNat = hexNumber (s.readByte .abuf) 8 8 ∧
        t.key.k2.toNat = hexNumber (s.readByte .abuf) 16 8 ∧ t.key.k3.toNat = hexNumber (s.readByte .abuf) 24 8) ∧
    (s.mlen.toNat ≠ 32 ∨ (∃ i, i < 32 ∧ hexVal (s.readByte .abuf i) = none) →
      exec .keyhex s = .next (s.failedWith .invalidKeyFormat))

/-- 42_key_schedule.md R122: KEYRAW, whole: each key word is four bytes of ABUF, little-endian, whatever MLEN and the bytes
are. -/
def Obligations.KeyrawCommand : Prop :=
  decodeWord 0x00000004 = .keyraw ∧
  ∀ s : State, ∃ t, exec .keyraw s = .next t ∧ t = State.succeeded { s with key := t.key } ∧
    ∀ j, j < 4 →
      ([t.key.k0, t.key.k1, t.key.k2, t.key.k3].getD j 0).toNat =
        (s.readByte .abuf (4 * j)).toNat + 2 ^ 8 * (s.readByte .abuf (4 * j + 1)).toNat +
          2 ^ 16 * (s.readByte .abuf (4 * j + 2)).toNat + 2 ^ 24 * (s.readByte .abuf (4 * j + 3)).toNat

/-! ### Message codec -/

/-- 00_scope.md R14: ceil8(n) is the smallest multiple of 8 that is at least n. -/
def Obligations.CeilEightIsTheLeastMultiple : Prop :=
  ∀ n : Nat, ceil8 n % 8 = 0 ∧ n ≤ ceil8 n ∧ ∀ m, m % 8 = 0 → n ≤ m → ceil8 n ≤ m

/-- 43_message_codec.md R137: PAD, whole. -/
def Obligations.PadCommand : Prop :=
  decodeWord 0x00000005 = .pad ∧
  ∀ s : State,
    (s.mlen.toNat ≤ s.capacity →
      ∃ t, exec .pad s = .next t ∧ t = State.succeeded { s with bbuf := t.bbuf, olen := t.olen } ∧
        t.olen.toNat = ceil8 s.mlen.toNat ∧
        (∀ a, a < s.mlen.toNat → t.readByte .bbuf a = s.readByte .abuf a) ∧
        (∀ a, s.mlen.toNat ≤ a → a < ceil8 s.mlen.toNat → t.readByte .bbuf a = 0x00) ∧
        (∀ a, ceil8 s.mlen.toNat ≤ a → t.readByte .bbuf a = s.readByte .bbuf a)) ∧
    (s.capacity < s.mlen.toNat → exec .pad s = .next (s.failedWith .allocationFailure))

/-- 43_message_codec.md R138: MENC, whole. -/
def Obligations.MencCommand : Prop :=
  decodeWord 0x00000006 = .menc ∧
  ∀ s : State,
    (s.mlen.toNat ≤ s.capacity →
      ∃ t, exec .menc s = .next t ∧ t = State.succeeded { s with bbuf := t.bbuf, olen := t.olen } ∧
        t.olen.toNat = ceil8 s.mlen.toNat ∧
        (∀ j, 8 * j < ceil8 s.mlen.toNat →
          (memRead4 (t.readByte .bbuf) (8 * j), memRead4 (t.readByte .bbuf) (8 * j + 4)) =
            teaEnc (memRead4 (paddedByte s) (8 * j)) (memRead4 (paddedByte s) (8 * j + 4)) s.key) ∧
        (∀ a, ceil8 s.mlen.toNat ≤ a → t.readByte .bbuf a = s.readByte .bbuf a)) ∧
    (s.capacity < s.mlen.toNat → exec .menc s = .next (s.failedWith .allocationFailure))

/-- 43_message_codec.md R139 and R140: MDEC, whole, with no truncation. -/
def Obligations.MdecCommand : Prop :=
  decodeWord 0x00000007 = .mdec ∧
  ∀ s : State,
    (s.mlen.toNat ≤ s.capacity → s.mlen.toNat % 8 = 0 →
      ∃ t, exec .mdec s = .next t ∧ t = State.succeeded { s with bbuf := t.bbuf, olen := t.olen } ∧
        t.olen = s.mlen ∧
        (∀ j, 8 * j < s.mlen.toNat →
          (memRead4 (t.readByte .bbuf) (8 * j), memRead4 (t.readByte .bbuf) (8 * j + 4)) =
            teaDec (memRead4 (s.readByte .abuf) (8 * j)) (memRead4 (s.readByte .abuf) (8 * j + 4)) s.key) ∧
        (∀ a, s.mlen.toNat ≤ a → t.readByte .bbuf a = s.readByte .bbuf a)) ∧
    (s.capacity < s.mlen.toNat → exec .mdec s = .next (s.failedWith .allocationFailure)) ∧
    (s.mlen.toNat ≤ s.capacity → s.mlen.toNat % 8 ≠ 0 → exec .mdec s = .next (s.failedWith .invalidBlockLength))

/-- 43_message_codec.md R141: identical 8-byte blocks of the padded message give identical blocks of ciphertext. -/
def Obligations.EqualBlocksEncryptEqually : Prop :=
  ∀ (s : State) (a b : Nat), s.mlen.toNat ≤ s.capacity → 8 * a < ceil8 s.mlen.toNat → 8 * b < ceil8 s.mlen.toNat →
    (∀ k, k < 8 → paddedByte s (8 * a + k) = paddedByte s (8 * b + k)) →
      ∃ t, exec .menc s = .next t ∧ ∀ k, k < 8 → t.readByte .bbuf (8 * a + k) = t.readByte .bbuf (8 * b + k)

/-- 43_message_codec.md R142: MENC, its output copied to ABUF, MDEC under the same key: the message comes back, with the zeros
of its padding. `u` is any state in which the host has copied the output and set MLEN. -/
def Obligations.MessageRoundTrip : Prop :=
  ∀ s : State, s.mlen.toNat ≤ s.capacity →
    ∃ t, exec .menc s = .next t ∧
      ∀ u : State, u.bufBytes = s.bufBytes → u.key = s.key → u.mlen = t.olen →
        (∀ i, i < t.olen.toNat → u.readByte .abuf i = t.readByte .bbuf i) →
          ∃ v, exec .mdec u = .next v ∧ v.err = false ∧
            v.olen.toNat = s.mlen.toNat + (8 - s.mlen.toNat % 8) % 8 ∧
            (∀ i, i < s.mlen.toNat → v.readByte .bbuf i = s.readByte .abuf i) ∧
            (∀ i, s.mlen.toNat ≤ i → i < v.olen.toNat → v.readByte .bbuf i = 0x00)

/-- 43_message_codec.md R143: PAD, MENC and MDEC neither read nor write V0 and V1; KEY is only read and ABUF is never written. -/
def Obligations.MessageCommandsLeaveTheBlockAlone : Prop :=
  ∀ (i : Instr) (s : State) (x y : Word), i = .pad ∨ i = .menc ∨ i = .mdec →
    ∃ t, exec i s = .next t ∧ t.v0 = s.v0 ∧ t.v1 = s.v1 ∧ t.key = s.key ∧ t.abuf = s.abuf ∧
      exec i { s with v0 := x, v1 := y } = .next { t with v0 := x, v1 := y }

/-- 20_memory.md R63: a command reads only its operand bytes of ABUF, so other bytes there change nothing; and it writes only
BBUF below the OLEN it leaves. -/
def Obligations.CommandsReadAndWriteOnlyTheirBytes : Prop :=
  (∀ (i : Instr) (s : State) (m : Memory),
    (∀ j, j < operandBytes i s → State.readByte { s with abuf := m } .abuf j = s.readByte .abuf j) →
      ∃ t, exec i s = .next t ∧ exec i { s with abuf := m } = .next { t with abuf := m }) ∧
  ∀ (i : Instr) (s t : State), exec i s = .next t →
    (∀ a, t.readByte .bbuf a ≠ s.readByte .bbuf a → a < t.olen.toNat) ∧
      ∀ a, t.readByte .abuf a = s.readByte .abuf a

/-! ### Hex codec -/

/-- 44_hex_codec.md R155: B2H, whole. -/
def Obligations.B2hCommand : Prop :=
  decodeWord 0x00000008 = .b2h ∧
  ∀ s : State,
    (3 * s.mlen.toNat - 1 ≤ s.capacity →
      ∃ t, exec .b2h s = .next t ∧ t = State.succeeded { s with bbuf := t.bbuf, olen := t.olen } ∧
        t.olen.toNat = (if s.mlen.toNat = 0 then 0 else 3 * s.mlen.toNat - 1) ∧
        (∀ i, i < s.mlen.toNat →
          t.readByte .bbuf (3 * i) = hexChar ((s.readByte .abuf i).extractLsb' 4 4) ∧
          t.readByte .bbuf (3 * i + 1) = hexChar ((s.readByte .abuf i).extractLsb' 0 4) ∧
          (i + 1 < s.mlen.toNat → t.readByte .bbuf (3 * i + 2) = 0x20)) ∧
        (∀ a, t.olen.toNat ≤ a → t.readByte .bbuf a = s.readByte .bbuf a)) ∧
    (s.capacity < s.mlen.toNat ∨ s.capacity < 3 * s.mlen.toNat - 1 →
      exec .b2h s = .next (s.failedWith .allocationFailure))

/-- 44_hex_codec.md R156: H2B, whole. -/
def Obligations.H2bCommand : Prop :=
  decodeWord 0x00000009 = .h2b ∧
  ∀ s : State,
    (s.mlen.toNat ≤ s.capacity → s.mlen.toNat % 2 = 0 →
      (∀ i, i < s.mlen.toNat → (hexVal (s.readByte .abuf i)).isSome = true) →
      ∃ t, exec .h2b s = .next t ∧ t = State.succeeded { s with bbuf := t.bbuf, olen := t.olen } ∧
        t.olen.toNat = s.mlen.toNat / 2 ∧
        (∀ i, i < s.mlen.toNat / 2 →
          (t.readByte .bbuf i).toNat = hexNumber (s.readByte .abuf) (2 * i) 2) ∧
        (∀ a, s.mlen.toNat / 2 ≤ a → t.readByte .bbuf a = s.readByte .bbuf a)) ∧
    (s.capacity < s.mlen.toNat → exec .h2b s = .next (s.failedWith .allocationFailure)) ∧
    (s.mlen.toNat ≤ s.capacity →
      s.mlen.toNat % 2 ≠ 0 ∨ (∃ i, i < s.mlen.toNat ∧ hexVal (s.readByte .abuf i) = none) →
        exec .h2b s = .next (s.failedWith .invalidHexFormat))

/-- 44_hex_codec.md R157: B2H, the spaces removed, H2B: the bytes come back. `u` is any state in which the host has placed the
characters that are left and set MLEN. -/
def Obligations.HexRoundTrip : Prop :=
  ∀ s : State, 3 * s.mlen.toNat - 1 ≤ s.capacity →
    ∃ t, exec .b2h s = .next t ∧
      ∀ chars : List Byte,
        chars = ((List.range t.olen.toNat).map (t.readByte .bbuf)).filter (fun c => c ≠ 0x20) →
          chars.length = 2 * s.mlen.toNat ∧
          ∀ u : State, u.bufBytes = s.bufBytes → u.mlen.toNat = chars.length →
            (∀ i, i < chars.length → u.readByte .abuf i = chars.getD i 0) →
              ∃ v, exec .h2b u = .next v ∧ v.err = false ∧ v.olen.toNat = s.mlen.toNat ∧
                ∀ i, i < s.mlen.toNat → v.readByte .bbuf i = s.readByte .abuf i

/-! ### Errors -/

/-- 60_exceptions.md R187: one error per command, the first check that fails; 0 where none does. -/
def Obligations.ErrorChecksInOrder : Prop :=
  ∀ s : State,
    (∃ t, exec .keyhex s = .next t ∧
      (s.mlen.toNat ≠ 32 → t.ecode = some .invalidKeyFormat) ∧
      (s.mlen.toNat = 32 → (∃ i, i < 32 ∧ hexVal (s.readByte .abuf i) = none) → t.ecode = some .invalidKeyFormat) ∧
      (s.mlen.toNat = 32 → (∀ i, i < 32 → hexVal (s.readByte .abuf i) ≠ none) → t.ecode = none)) ∧
    (∀ i, i = .pad ∨ i = .menc →
      ∃ t, exec i s = .next t ∧ t.ecode = (if s.capacity < s.mlen.toNat then some .allocationFailure else none)) ∧
    (∃ t, exec .mdec s = .next t ∧
      t.ecode = (if s.capacity < s.mlen.toNat then some .allocationFailure
        else if s.mlen.toNat % 8 ≠ 0 then some .invalidBlockLength
        else none)) ∧
    (∃ t, exec .b2h s = .next t ∧
      t.ecode = (if s.capacity < s.mlen.toNat then some .allocationFailure
        else if 0 < s.mlen.toNat ∧ s.capacity < 3 * s.mlen.toNat - 1 then some .allocationFailure
        else none)) ∧
    (∃ t, exec .h2b s = .next t ∧
      (s.capacity < s.mlen.toNat → t.ecode = some .allocationFailure) ∧
      (s.mlen.toNat ≤ s.capacity → s.mlen.toNat % 2 = 1 → t.ecode = some .invalidHexFormat) ∧
      (s.mlen.toNat ≤ s.capacity → s.mlen.toNat % 2 = 0 →
        (∃ i, i < s.mlen.toNat ∧ hexVal (s.readByte .abuf i) = none) → t.ecode = some .invalidHexFormat) ∧
      (s.mlen.toNat ≤ s.capacity → s.mlen.toNat % 2 = 0 →
        (∀ i, i < s.mlen.toNat → hexVal (s.readByte .abuf i) ≠ none) → t.ecode = none)) ∧
    (∀ w, ∃ t, exec (.illegal w) s = .next t ∧ t.ecode = some .illegalCommand) ∧
    (∀ i, i = .nop ∨ i = .enc ∨ i = .dec ∨ i = .keyraw → ∃ t, exec i s = .next t ∧ t.ecode = none)

/-- 60_exceptions.md R180: the codes of STATUS.ECODE; 6 to 15 are never there. -/
def Obligations.ErrorCodeNumbers : Prop :=
  (ecodeField none = 0 ∧ ecodeField (some .invalidKeyFormat) = 1 ∧ ecodeField (some .invalidHexFormat) = 2 ∧
    ecodeField (some .invalidBlockLength) = 3 ∧ ecodeField (some .allocationFailure) = 4 ∧
    ecodeField (some .illegalCommand) = 5) ∧
  ∀ s : State, s.statusWord.extractLsb' 4 4 = ecodeField s.ecode ∧ (s.statusWord.extractLsb' 4 4).toNat ≤ 5
end

