-- ==== Sys2Proof/Laws/Cipher.lean ====
section
/-!
SUPPORT. The rounds of the block cipher: a decryption round undoes an encryption round, and the running sums.
-/
namespace Sys2Proof.Machine

/-- A decryption round undoes an encryption round and steps the sum back (41_block_cipher.md R107). -/
theorem decRound_encRound (k : Key) (r : Round) :
    decRound k (encRound k r) = r := by
  simp [decRound, encRound]

/-- An encryption round undoes a decryption round. -/
theorem encRound_decRound (k : Key) (r : Round) : encRound k (decRound k r) = r := by
  simp [decRound, encRound]

@[simp] theorem encRound_sum (k : Key) (r : Round) : (encRound k r).sum = r.sum + DELTA := rfl

@[simp] theorem decRound_sum (k : Key) (r : Round) : (decRound k r).sum = r.sum - DELTA := rfl

theorem encRounds_succ (n : Nat) (v0 v1 : Word) (k : Key) :
    encRounds (n + 1) v0 v1 k = encRound k (encRounds n v0 v1 k) := rfl

theorem decRounds_succ (n : Nat) (v0 v1 : Word) (k : Key) :
    decRounds (n + 1) v0 v1 k = decRound k (decRounds n v0 v1 k) := rfl

/-- The sum of TEA_ENC after `n` rounds: `n` copies of DELTA (41_block_cipher.md R102). -/
theorem encRounds_sum (n : Nat) (v0 v1 : Word) (k : Key) :
    (encRounds n v0 v1 k).sum = BitVec.ofNat 32 n * DELTA := by
  induction n with
  | zero => simp [encRounds, loop]
  | succ n ih =>
    rw [encRounds_succ, encRound_sum, ih, BitVec.ofNat_add, BitVec.add_mul]
    simp

end Sys2Proof.Machine
end

