-- ==== Sys2Proof/Laws/Memory.lean ====
section
/-!
SUPPORT. Laws of the buffers: what `store` and `memWrite` do to every byte, that they keep the canonical form, that memories in
canonical form are equal when their bytes are, and the induction for `loop`.
-/
namespace Sys2Proof.Machine

/-! ### Loops -/

@[simp] theorem loop_zero {α : Type} (body : Nat → α → α) (a : α) : loop 0 body a = a := rfl

@[simp] theorem loop_succ {α : Type} (n : Nat) (body : Nat → α → α) (a : α) :
    loop (n + 1) body a = body n (loop n body a) := rfl

/-- A property that the start has and every round keeps holds at the end. -/
theorem loop_induction {α : Type} {body : Nat → α → α} {a : α} (P : Nat → α → Prop) (h0 : P 0 a) (n : Nat)
    (hs : ∀ k b, k < n → P k b → P (k + 1) (body k b)) : P n (loop n body a) := by
  induction n with
  | zero => exact h0
  | succ k ih => exact hs k _ (Nat.lt_succ_self k) (ih fun j b hj => hs j b (Nat.lt_succ_of_lt hj))

/-- A property of the result that every round keeps. -/
theorem loop_keeps {α : Type} {body : Nat → α → α} {a : α} (P : α → Prop) (h0 : P a) (n : Nat)
    (hs : ∀ k b, k < n → P b → P (body k b)) : P (loop n body a) :=
  loop_induction (fun _ b => P b) h0 n hs

/-! ### One byte -/

theorem find_nil (i : Nat) : Memory.find [] i = none := rfl

theorem find_cons (c : Host.Cell) (m : Memory) (i : Nat) :
    Memory.find (c :: m) i = if c.1 = i then some c.2 else Memory.find m i := rfl

theorem find_store_same (m : Memory) (i : Nat) (v : Byte) : (m.store i v).find i = some v := by
  induction m with
  | nil => simp [Memory.store, Memory.find]
  | cons c m ih =>
    simp only [Memory.store]
    split
    · simp [Memory.find]
    · split
      · simp [Memory.find]
      · rename_i h
        have : ¬ c.1 = i := fun e => h e.symm
        simp [Memory.find, this, ih]

theorem find_store_other (m : Memory) {i j : Nat} (v : Byte) (h : j ≠ i) : (m.store i v).find j = m.find j := by
  have h' : ¬ i = j := fun e => h e.symm
  induction m with
  | nil => simp [Memory.store, Memory.find, h']
  | cons c m ih =>
    simp only [Memory.store]
    split
    · simp [Memory.find, h']
    · split
      · rename_i e
        have hc : ¬ c.1 = j := fun e' => h (e'.symm.trans e.symm)
        simp [Memory.find, h', hc]
      · simp [Memory.find, ih]

/-- What `store` does to every byte. -/
theorem find_store (m : Memory) (i j : Nat) (v : Byte) :
    (m.store i v).find j = if j = i then some v else m.find j := by
  split
  · subst_vars
    exact find_store_same m _ v
  · exact find_store_other m v ‹_›

/-! ### The canonical form -/

theorem wf_nil (n : Nat) : Memory.wf [] n := ⟨List.Pairwise.nil, by simp⟩

theorem mem_store {m : Memory} {i : Nat} {v : Byte} {c : Host.Cell} (h : c ∈ m.store i v) : c = (i, v) ∨ c ∈ m := by
  induction m with
  | nil => simpa [Memory.store] using h
  | cons d m ih =>
    simp only [Memory.store] at h
    split at h
    · simpa using h
    · split at h
      · rcases List.mem_cons.1 h with h | h
        · exact .inl h
        · exact .inr (List.mem_cons_of_mem _ h)
      · rcases List.mem_cons.1 h with h | h
        · exact .inr (by simp [h])
        · exact (ih h).imp id (List.mem_cons_of_mem _)

/-- `store` keeps the canonical form. -/
theorem store_wf {m : Memory} {n i : Nat} (v : Byte) (hm : m.wf n) (hi : i < n) : (m.store i v).wf n := by
  refine ⟨?_, fun c hc => ?_⟩
  · obtain ⟨hp, -⟩ := hm
    induction m with
    | nil => simp [Memory.store]
    | cons c m ih =>
      obtain ⟨hc, hm⟩ := List.pairwise_cons.1 hp
      simp only [Memory.store]
      split
      · rename_i h
        refine List.pairwise_cons.2 ⟨fun d hd => ?_, hp⟩
        rcases List.mem_cons.1 hd with rfl | hd
        · exact h
        · exact Nat.lt_trans h (hc d hd)
      · split
        · rename_i e
          exact List.pairwise_cons.2 ⟨fun d hd => by simpa [e] using hc d hd, hm⟩
        · refine List.pairwise_cons.2 ⟨fun d hd => ?_, ih hm⟩
          rcases mem_store hd with rfl | hd
          · simp only; omega
          · exact hc d hd
  · rcases mem_store hc with rfl | hc
    · exact hi
    · exact hm.2 c hc

theorem find_none_of_lt {m : Memory} {i : Nat} (h : ∀ c ∈ m, i < c.1) : m.find i = none := by
  induction m with
  | nil => rfl
  | cons c m ih =>
    have hc : ¬ c.1 = i := by have := h c (by simp); omega
    simp [Memory.find, hc, ih fun d hd => h d (List.mem_cons_of_mem _ hd)]

/-- In canonical form, equal bytes are equal data. -/
theorem memory_eq_of_find_eq {m k : Memory} {n : Nat} (hm : m.wf n) (hk : k.wf n) (h : ∀ i, m.find i = k.find i) :
    m = k := by
  obtain ⟨hm, -⟩ := hm
  obtain ⟨hk, -⟩ := hk
  induction m generalizing k with
  | nil =>
    cases k with
    | nil => rfl
    | cons d k => have := h d.1; simp [Memory.find] at this
  | cons c m ih =>
    cases k with
    | nil => have := h c.1; simp [Memory.find] at this
    | cons d k =>
      obtain ⟨hc, hm⟩ := List.pairwise_cons.1 hm
      obtain ⟨hd, hk⟩ := List.pairwise_cons.1 hk
      have hcd : c.1 = d.1 := by
        rcases Nat.lt_trichotomy c.1 d.1 with hlt | he | hlt
        · have := h c.1
          rw [find_none_of_lt (m := d :: k)] at this
          · simp [Memory.find] at this
          · intro e he
            rcases List.mem_cons.1 he with rfl | he
            · exact hlt
            · exact Nat.lt_trans hlt (hd e he)
        · exact he
        · have := h d.1
          rw [find_none_of_lt (m := c :: m)] at this
          · simp [Memory.find] at this
          · intro e he
            rcases List.mem_cons.1 he with rfl | he
            · exact hlt
            · exact Nat.lt_trans hlt (hc e he)
      have hv : c.2 = d.2 := by simpa [Memory.find, hcd] using h c.1
      have : m = k := by
        refine ih (fun i => ?_) hm hk
        by_cases hi : c.1 = i
        · rw [find_none_of_lt (m := m) (fun e he => hi ▸ hc e he), find_none_of_lt (m := k)
            (fun e he => by have := hd e he; omega)]
        · simpa [Memory.find, hi, hcd ▸ hi] using h i
      rw [this, Prod.ext hcd hv]

/-! ### MemWrite -/

/-- What MemWrite does to every byte (00_scope.md R10). -/
theorem find_memWrite {w : Nat} (n i j : Nat) (v : BitVec w) (m : Memory) :
    (memWrite n i v m).find j = if i ≤ j ∧ j < i + n then some (byteOf v (j - i)) else m.find j := by
  unfold memWrite
  induction n with
  | zero =>
    rw [loop_zero, if_neg (by omega)]
  | succ n ih =>
    rw [loop_succ, find_store, ih]
    by_cases h : j = i + n
    · subst h
      simp
    · simp only [h, if_false]
      refine if_congr ?_ rfl rfl
      omega

/-- MemWrite keeps the canonical form. -/
theorem memWrite_wf {w : Nat} {n i capacity : Nat} (v : BitVec w) {m : Memory} (hm : m.wf capacity)
    (hi : i + n ≤ capacity) : (memWrite n i v m).wf capacity :=
  loop_keeps (fun m => Memory.wf m capacity) hm n fun k _ hk hb => store_wf _ hb (by omega)

/-! ### MemRead -/

/-- Byte `k` of a word read is the buffer byte `k` further on (20_memory.md R57). -/
theorem byteOf_memRead4 (B : Nat → Byte) (i k : Nat) (hk : k < 4) : byteOf (memRead4 B i) k = B (i + k) := by
  have h : k = 0 ∨ k = 1 ∨ k = 2 ∨ k = 3 := by omega
  rcases h with rfl | rfl | rfl | rfl <;>
    · apply BitVec.eq_of_getLsbD_eq
      intro b hb
      have hb' : b < 8 := hb
      simp only [byteOf, memRead4, BitVec.getLsbD_extractLsb', BitVec.getLsbD_append]
      interval_cases b <;> simp

/-- MemRead of four bytes that a word was written to gives the word. -/
theorem memRead4_of_bytes (B : Nat → Byte) (i : Nat) (v : Word) (h : ∀ k, k < 4 → B (i + k) = byteOf v k) :
    memRead4 B i = v := by
  have h0 := h 0 (by omega)
  have h1 := h 1 (by omega)
  have h2 := h 2 (by omega)
  have h3 := h 3 (by omega)
  unfold memRead4
  rw [h3, h2, h1, show B i = byteOf v 0 from h0]
  apply BitVec.eq_of_getLsbD_eq
  intro b hb
  simp only [byteOf, BitVec.getLsbD_append, BitVec.getLsbD_extractLsb']
  interval_cases b <;> simp

/-! ### Bytes of the state -/

theorem readByte_eq (s : State) (b : Buf) (i : Nat) :
    s.readByte b i = ((s.buf b).find i).getD (Config.drawByte s.resets b i) := by
  unfold State.readByte
  cases (s.buf b).find i <;> rfl

/-- Equal finds and the same resets read the same. -/
theorem readByte_congr {s t : State} {b : Buf} {i : Nat} (hr : t.resets = s.resets)
    (hf : (t.buf b).find i = (s.buf b).find i) : t.readByte b i = s.readByte b i := by
  rw [readByte_eq, readByte_eq, hr, hf]

end Sys2Proof.Machine
end

