-- ==== Sys2Proof/Laws/State.lean ====
section
/-!
SUPPORT. What each named update of the state leaves in each field: one lemma per field per update, so that no proof unfolds a
record update; and the views that read several fields (`readByte`, `buf`, `len`, `capacity`).
-/
namespace Sys2Proof.Machine

variable (s : State)

/-! ### clearStatus -/

@[simp] theorem clearStatus_done (w : Word) : (clearStatus w s).done = (s.done && !w.getLsbD 1) := rfl
@[simp] theorem clearStatus_err (w : Word) : (clearStatus w s).err = (s.err && !w.getLsbD 2) := rfl
@[simp] theorem clearStatus_ecode (w : Word) : (clearStatus w s).ecode = if w.getLsbD 2 then none else s.ecode := rfl
@[simp] theorem clearStatus_doneie (w : Word) : (clearStatus w s).doneie = s.doneie := rfl
@[simp] theorem clearStatus_mlen (w : Word) : (clearStatus w s).mlen = s.mlen := rfl
@[simp] theorem clearStatus_olen (w : Word) : (clearStatus w s).olen = s.olen := rfl
@[simp] theorem clearStatus_key (w : Word) : (clearStatus w s).key = s.key := rfl
@[simp] theorem clearStatus_v0 (w : Word) : (clearStatus w s).v0 = s.v0 := rfl
@[simp] theorem clearStatus_v1 (w : Word) : (clearStatus w s).v1 = s.v1 := rfl
@[simp] theorem clearStatus_abuf (w : Word) : (clearStatus w s).abuf = s.abuf := rfl
@[simp] theorem clearStatus_bbuf (w : Word) : (clearStatus w s).bbuf = s.bbuf := rfl
@[simp] theorem clearStatus_phase (w : Word) : (clearStatus w s).phase = s.phase := rfl
@[simp] theorem clearStatus_pend (w : Word) : (clearStatus w s).pend = s.pend := rfl
@[simp] theorem clearStatus_resetHeld (w : Word) : (clearStatus w s).resetHeld = s.resetHeld := rfl
@[simp] theorem clearStatus_bufBytes (w : Word) : (clearStatus w s).bufBytes = s.bufBytes := rfl
@[simp] theorem clearStatus_resets (w : Word) : (clearStatus w s).resets = s.resets := rfl
@[simp] theorem clearStatus_inputs (w : Word) : (clearStatus w s).inputs = s.inputs := rfl
@[simp] theorem clearStatus_replies (w : Word) : (clearStatus w s).replies = s.replies := rfl
@[simp] theorem clearStatus_len (w : Word) : (clearStatus w s).len = s.len := rfl
@[simp] theorem clearStatus_capacity (w : Word) : (clearStatus w s).capacity = s.capacity := rfl
@[simp] theorem clearStatus_buf (w : Word) (b : Buf) : (clearStatus w s).buf b = s.buf b := rfl
@[simp] theorem clearStatus_readByte (w : Word) (b : Buf) (i : Nat) : (clearStatus w s).readByte b i = s.readByte b i := rfl
@[simp] theorem clearStatus_reader (w : Word) (b : Buf) : (clearStatus w s).readByte b = s.readByte b := rfl

/-! ### writeInten -/

@[simp] theorem writeInten_done (w : Word) : (writeInten w s).done = s.done := rfl
@[simp] theorem writeInten_err (w : Word) : (writeInten w s).err = s.err := rfl
@[simp] theorem writeInten_ecode (w : Word) : (writeInten w s).ecode = s.ecode := rfl
@[simp] theorem writeInten_doneie (w : Word) : (writeInten w s).doneie = w.getLsbD 0 := rfl
@[simp] theorem writeInten_mlen (w : Word) : (writeInten w s).mlen = s.mlen := rfl
@[simp] theorem writeInten_olen (w : Word) : (writeInten w s).olen = s.olen := rfl
@[simp] theorem writeInten_key (w : Word) : (writeInten w s).key = s.key := rfl
@[simp] theorem writeInten_v0 (w : Word) : (writeInten w s).v0 = s.v0 := rfl
@[simp] theorem writeInten_v1 (w : Word) : (writeInten w s).v1 = s.v1 := rfl
@[simp] theorem writeInten_abuf (w : Word) : (writeInten w s).abuf = s.abuf := rfl
@[simp] theorem writeInten_bbuf (w : Word) : (writeInten w s).bbuf = s.bbuf := rfl
@[simp] theorem writeInten_phase (w : Word) : (writeInten w s).phase = s.phase := rfl
@[simp] theorem writeInten_pend (w : Word) : (writeInten w s).pend = s.pend := rfl
@[simp] theorem writeInten_resetHeld (w : Word) : (writeInten w s).resetHeld = s.resetHeld := rfl
@[simp] theorem writeInten_bufBytes (w : Word) : (writeInten w s).bufBytes = s.bufBytes := rfl
@[simp] theorem writeInten_resets (w : Word) : (writeInten w s).resets = s.resets := rfl
@[simp] theorem writeInten_inputs (w : Word) : (writeInten w s).inputs = s.inputs := rfl
@[simp] theorem writeInten_replies (w : Word) : (writeInten w s).replies = s.replies := rfl
@[simp] theorem writeInten_len (w : Word) : (writeInten w s).len = s.len := rfl
@[simp] theorem writeInten_capacity (w : Word) : (writeInten w s).capacity = s.capacity := rfl
@[simp] theorem writeInten_buf (w : Word) (b : Buf) : (writeInten w s).buf b = s.buf b := rfl
@[simp] theorem writeInten_readByte (w : Word) (b : Buf) (i : Nat) : (writeInten w s).readByte b i = s.readByte b i := rfl
@[simp] theorem writeInten_reader (w : Word) (b : Buf) : (writeInten w s).readByte b = s.readByte b := rfl

/-! ### setMlen -/

@[simp] theorem setMlen_done (w : Word) : (setMlen w s).done = s.done := rfl
@[simp] theorem setMlen_err (w : Word) : (setMlen w s).err = s.err := rfl
@[simp] theorem setMlen_ecode (w : Word) : (setMlen w s).ecode = s.ecode := rfl
@[simp] theorem setMlen_doneie (w : Word) : (setMlen w s).doneie = s.doneie := rfl
@[simp] theorem setMlen_mlen (w : Word) : (setMlen w s).mlen = w := rfl
@[simp] theorem setMlen_olen (w : Word) : (setMlen w s).olen = s.olen := rfl
@[simp] theorem setMlen_key (w : Word) : (setMlen w s).key = s.key := rfl
@[simp] theorem setMlen_v0 (w : Word) : (setMlen w s).v0 = s.v0 := rfl
@[simp] theorem setMlen_v1 (w : Word) : (setMlen w s).v1 = s.v1 := rfl
@[simp] theorem setMlen_abuf (w : Word) : (setMlen w s).abuf = s.abuf := rfl
@[simp] theorem setMlen_bbuf (w : Word) : (setMlen w s).bbuf = s.bbuf := rfl
@[simp] theorem setMlen_phase (w : Word) : (setMlen w s).phase = s.phase := rfl
@[simp] theorem setMlen_pend (w : Word) : (setMlen w s).pend = s.pend := rfl
@[simp] theorem setMlen_resetHeld (w : Word) : (setMlen w s).resetHeld = s.resetHeld := rfl
@[simp] theorem setMlen_bufBytes (w : Word) : (setMlen w s).bufBytes = s.bufBytes := rfl
@[simp] theorem setMlen_resets (w : Word) : (setMlen w s).resets = s.resets := rfl
@[simp] theorem setMlen_inputs (w : Word) : (setMlen w s).inputs = s.inputs := rfl
@[simp] theorem setMlen_replies (w : Word) : (setMlen w s).replies = s.replies := rfl
@[simp] theorem setMlen_capacity (w : Word) : (setMlen w s).capacity = s.capacity := rfl
@[simp] theorem setMlen_buf (w : Word) (b : Buf) : (setMlen w s).buf b = s.buf b := rfl
@[simp] theorem setMlen_readByte (w : Word) (b : Buf) (i : Nat) : (setMlen w s).readByte b i = s.readByte b i := rfl
@[simp] theorem setMlen_reader (w : Word) (b : Buf) : (setMlen w s).readByte b = s.readByte b := rfl

/-! ### setV0 -/

@[simp] theorem setV0_done (w : Word) : (setV0 w s).done = s.done := rfl
@[simp] theorem setV0_err (w : Word) : (setV0 w s).err = s.err := rfl
@[simp] theorem setV0_ecode (w : Word) : (setV0 w s).ecode = s.ecode := rfl
@[simp] theorem setV0_doneie (w : Word) : (setV0 w s).doneie = s.doneie := rfl
@[simp] theorem setV0_mlen (w : Word) : (setV0 w s).mlen = s.mlen := rfl
@[simp] theorem setV0_olen (w : Word) : (setV0 w s).olen = s.olen := rfl
@[simp] theorem setV0_key (w : Word) : (setV0 w s).key = s.key := rfl
@[simp] theorem setV0_v0 (w : Word) : (setV0 w s).v0 = w := rfl
@[simp] theorem setV0_v1 (w : Word) : (setV0 w s).v1 = s.v1 := rfl
@[simp] theorem setV0_abuf (w : Word) : (setV0 w s).abuf = s.abuf := rfl
@[simp] theorem setV0_bbuf (w : Word) : (setV0 w s).bbuf = s.bbuf := rfl
@[simp] theorem setV0_phase (w : Word) : (setV0 w s).phase = s.phase := rfl
@[simp] theorem setV0_pend (w : Word) : (setV0 w s).pend = s.pend := rfl
@[simp] theorem setV0_resetHeld (w : Word) : (setV0 w s).resetHeld = s.resetHeld := rfl
@[simp] theorem setV0_bufBytes (w : Word) : (setV0 w s).bufBytes = s.bufBytes := rfl
@[simp] theorem setV0_resets (w : Word) : (setV0 w s).resets = s.resets := rfl
@[simp] theorem setV0_inputs (w : Word) : (setV0 w s).inputs = s.inputs := rfl
@[simp] theorem setV0_replies (w : Word) : (setV0 w s).replies = s.replies := rfl
@[simp] theorem setV0_len (w : Word) : (setV0 w s).len = s.len := rfl
@[simp] theorem setV0_capacity (w : Word) : (setV0 w s).capacity = s.capacity := rfl
@[simp] theorem setV0_buf (w : Word) (b : Buf) : (setV0 w s).buf b = s.buf b := rfl
@[simp] theorem setV0_readByte (w : Word) (b : Buf) (i : Nat) : (setV0 w s).readByte b i = s.readByte b i := rfl
@[simp] theorem setV0_reader (w : Word) (b : Buf) : (setV0 w s).readByte b = s.readByte b := rfl

/-! ### setV1 -/

@[simp] theorem setV1_done (w : Word) : (setV1 w s).done = s.done := rfl
@[simp] theorem setV1_err (w : Word) : (setV1 w s).err = s.err := rfl
@[simp] theorem setV1_ecode (w : Word) : (setV1 w s).ecode = s.ecode := rfl
@[simp] theorem setV1_doneie (w : Word) : (setV1 w s).doneie = s.doneie := rfl
@[simp] theorem setV1_mlen (w : Word) : (setV1 w s).mlen = s.mlen := rfl
@[simp] theorem setV1_olen (w : Word) : (setV1 w s).olen = s.olen := rfl
@[simp] theorem setV1_key (w : Word) : (setV1 w s).key = s.key := rfl
@[simp] theorem setV1_v0 (w : Word) : (setV1 w s).v0 = s.v0 := rfl
@[simp] theorem setV1_v1 (w : Word) : (setV1 w s).v1 = w := rfl
@[simp] theorem setV1_abuf (w : Word) : (setV1 w s).abuf = s.abuf := rfl
@[simp] theorem setV1_bbuf (w : Word) : (setV1 w s).bbuf = s.bbuf := rfl
@[simp] theorem setV1_phase (w : Word) : (setV1 w s).phase = s.phase := rfl
@[simp] theorem setV1_pend (w : Word) : (setV1 w s).pend = s.pend := rfl
@[simp] theorem setV1_resetHeld (w : Word) : (setV1 w s).resetHeld = s.resetHeld := rfl
@[simp] theorem setV1_bufBytes (w : Word) : (setV1 w s).bufBytes = s.bufBytes := rfl
@[simp] theorem setV1_resets (w : Word) : (setV1 w s).resets = s.resets := rfl
@[simp] theorem setV1_inputs (w : Word) : (setV1 w s).inputs = s.inputs := rfl
@[simp] theorem setV1_replies (w : Word) : (setV1 w s).replies = s.replies := rfl
@[simp] theorem setV1_len (w : Word) : (setV1 w s).len = s.len := rfl
@[simp] theorem setV1_capacity (w : Word) : (setV1 w s).capacity = s.capacity := rfl
@[simp] theorem setV1_buf (w : Word) (b : Buf) : (setV1 w s).buf b = s.buf b := rfl
@[simp] theorem setV1_readByte (w : Word) (b : Buf) (i : Nat) : (setV1 w s).readByte b i = s.readByte b i := rfl
@[simp] theorem setV1_reader (w : Word) (b : Buf) : (setV1 w s).readByte b = s.readByte b := rfl

/-! ### setKey -/

@[simp] theorem setKey_done (k : Key) : (setKey k s).done = s.done := rfl
@[simp] theorem setKey_err (k : Key) : (setKey k s).err = s.err := rfl
@[simp] theorem setKey_ecode (k : Key) : (setKey k s).ecode = s.ecode := rfl
@[simp] theorem setKey_doneie (k : Key) : (setKey k s).doneie = s.doneie := rfl
@[simp] theorem setKey_mlen (k : Key) : (setKey k s).mlen = s.mlen := rfl
@[simp] theorem setKey_olen (k : Key) : (setKey k s).olen = s.olen := rfl
@[simp] theorem setKey_key (k : Key) : (setKey k s).key = k := rfl
@[simp] theorem setKey_v0 (k : Key) : (setKey k s).v0 = s.v0 := rfl
@[simp] theorem setKey_v1 (k : Key) : (setKey k s).v1 = s.v1 := rfl
@[simp] theorem setKey_abuf (k : Key) : (setKey k s).abuf = s.abuf := rfl
@[simp] theorem setKey_bbuf (k : Key) : (setKey k s).bbuf = s.bbuf := rfl
@[simp] theorem setKey_phase (k : Key) : (setKey k s).phase = s.phase := rfl
@[simp] theorem setKey_pend (k : Key) : (setKey k s).pend = s.pend := rfl
@[simp] theorem setKey_resetHeld (k : Key) : (setKey k s).resetHeld = s.resetHeld := rfl
@[simp] theorem setKey_bufBytes (k : Key) : (setKey k s).bufBytes = s.bufBytes := rfl
@[simp] theorem setKey_resets (k : Key) : (setKey k s).resets = s.resets := rfl
@[simp] theorem setKey_inputs (k : Key) : (setKey k s).inputs = s.inputs := rfl
@[simp] theorem setKey_replies (k : Key) : (setKey k s).replies = s.replies := rfl
@[simp] theorem setKey_len (k : Key) : (setKey k s).len = s.len := rfl
@[simp] theorem setKey_capacity (k : Key) : (setKey k s).capacity = s.capacity := rfl
@[simp] theorem setKey_buf (k : Key) (b : Buf) : (setKey k s).buf b = s.buf b := rfl
@[simp] theorem setKey_readByte (k : Key) (b : Buf) (i : Nat) : (setKey k s).readByte b i = s.readByte b i := rfl
@[simp] theorem setKey_reader (k : Key) (b : Buf) : (setKey k s).readByte b = s.readByte b := rfl

/-! ### setBlock -/

@[simp] theorem setBlock_done (e : Word × Word) : (setBlock e s).done = s.done := rfl
@[simp] theorem setBlock_err (e : Word × Word) : (setBlock e s).err = s.err := rfl
@[simp] theorem setBlock_ecode (e : Word × Word) : (setBlock e s).ecode = s.ecode := rfl
@[simp] theorem setBlock_doneie (e : Word × Word) : (setBlock e s).doneie = s.doneie := rfl
@[simp] theorem setBlock_mlen (e : Word × Word) : (setBlock e s).mlen = s.mlen := rfl
@[simp] theorem setBlock_olen (e : Word × Word) : (setBlock e s).olen = s.olen := rfl
@[simp] theorem setBlock_key (e : Word × Word) : (setBlock e s).key = s.key := rfl
@[simp] theorem setBlock_v0 (e : Word × Word) : (setBlock e s).v0 = e.1 := rfl
@[simp] theorem setBlock_v1 (e : Word × Word) : (setBlock e s).v1 = e.2 := rfl
@[simp] theorem setBlock_abuf (e : Word × Word) : (setBlock e s).abuf = s.abuf := rfl
@[simp] theorem setBlock_bbuf (e : Word × Word) : (setBlock e s).bbuf = s.bbuf := rfl
@[simp] theorem setBlock_phase (e : Word × Word) : (setBlock e s).phase = s.phase := rfl
@[simp] theorem setBlock_pend (e : Word × Word) : (setBlock e s).pend = s.pend := rfl
@[simp] theorem setBlock_resetHeld (e : Word × Word) : (setBlock e s).resetHeld = s.resetHeld := rfl
@[simp] theorem setBlock_bufBytes (e : Word × Word) : (setBlock e s).bufBytes = s.bufBytes := rfl
@[simp] theorem setBlock_resets (e : Word × Word) : (setBlock e s).resets = s.resets := rfl
@[simp] theorem setBlock_inputs (e : Word × Word) : (setBlock e s).inputs = s.inputs := rfl
@[simp] theorem setBlock_replies (e : Word × Word) : (setBlock e s).replies = s.replies := rfl
@[simp] theorem setBlock_len (e : Word × Word) : (setBlock e s).len = s.len := rfl
@[simp] theorem setBlock_capacity (e : Word × Word) : (setBlock e s).capacity = s.capacity := rfl
@[simp] theorem setBlock_buf (e : Word × Word) (b : Buf) : (setBlock e s).buf b = s.buf b := rfl
@[simp] theorem setBlock_readByte (e : Word × Word) (b : Buf) (i : Nat) : (setBlock e s).readByte b i = s.readByte b i := rfl
@[simp] theorem setBlock_reader (e : Word × Word) (b : Buf) : (setBlock e s).readByte b = s.readByte b := rfl

/-! ### setOutput -/

@[simp] theorem setOutput_done (m : Memory) (n : Nat) : (setOutput m n s).done = s.done := rfl
@[simp] theorem setOutput_err (m : Memory) (n : Nat) : (setOutput m n s).err = s.err := rfl
@[simp] theorem setOutput_ecode (m : Memory) (n : Nat) : (setOutput m n s).ecode = s.ecode := rfl
@[simp] theorem setOutput_doneie (m : Memory) (n : Nat) : (setOutput m n s).doneie = s.doneie := rfl
@[simp] theorem setOutput_mlen (m : Memory) (n : Nat) : (setOutput m n s).mlen = s.mlen := rfl
@[simp] theorem setOutput_olen (m : Memory) (n : Nat) : (setOutput m n s).olen = BitVec.ofNat 32 n := rfl
@[simp] theorem setOutput_key (m : Memory) (n : Nat) : (setOutput m n s).key = s.key := rfl
@[simp] theorem setOutput_v0 (m : Memory) (n : Nat) : (setOutput m n s).v0 = s.v0 := rfl
@[simp] theorem setOutput_v1 (m : Memory) (n : Nat) : (setOutput m n s).v1 = s.v1 := rfl
@[simp] theorem setOutput_abuf (m : Memory) (n : Nat) : (setOutput m n s).abuf = s.abuf := rfl
@[simp] theorem setOutput_bbuf (m : Memory) (n : Nat) : (setOutput m n s).bbuf = m := rfl
@[simp] theorem setOutput_phase (m : Memory) (n : Nat) : (setOutput m n s).phase = s.phase := rfl
@[simp] theorem setOutput_pend (m : Memory) (n : Nat) : (setOutput m n s).pend = s.pend := rfl
@[simp] theorem setOutput_resetHeld (m : Memory) (n : Nat) : (setOutput m n s).resetHeld = s.resetHeld := rfl
@[simp] theorem setOutput_bufBytes (m : Memory) (n : Nat) : (setOutput m n s).bufBytes = s.bufBytes := rfl
@[simp] theorem setOutput_resets (m : Memory) (n : Nat) : (setOutput m n s).resets = s.resets := rfl
@[simp] theorem setOutput_inputs (m : Memory) (n : Nat) : (setOutput m n s).inputs = s.inputs := rfl
@[simp] theorem setOutput_replies (m : Memory) (n : Nat) : (setOutput m n s).replies = s.replies := rfl
@[simp] theorem setOutput_len (m : Memory) (n : Nat) : (setOutput m n s).len = s.len := rfl
@[simp] theorem setOutput_capacity (m : Memory) (n : Nat) : (setOutput m n s).capacity = s.capacity := rfl

/-! ### issue -/

@[simp] theorem issue_done (w : Word) : (issue w s).done = false := rfl
@[simp] theorem issue_err (w : Word) : (issue w s).err = false := rfl
@[simp] theorem issue_ecode (w : Word) : (issue w s).ecode = none := rfl
@[simp] theorem issue_doneie (w : Word) : (issue w s).doneie = s.doneie := rfl
@[simp] theorem issue_mlen (w : Word) : (issue w s).mlen = s.mlen := rfl
@[simp] theorem issue_olen (w : Word) : (issue w s).olen = s.olen := rfl
@[simp] theorem issue_key (w : Word) : (issue w s).key = s.key := rfl
@[simp] theorem issue_v0 (w : Word) : (issue w s).v0 = s.v0 := rfl
@[simp] theorem issue_v1 (w : Word) : (issue w s).v1 = s.v1 := rfl
@[simp] theorem issue_abuf (w : Word) : (issue w s).abuf = s.abuf := rfl
@[simp] theorem issue_bbuf (w : Word) : (issue w s).bbuf = s.bbuf := rfl
@[simp] theorem issue_phase (w : Word) : (issue w s).phase = .busy := rfl
@[simp] theorem issue_pend (w : Word) : (issue w s).pend = w := rfl
@[simp] theorem issue_resetHeld (w : Word) : (issue w s).resetHeld = s.resetHeld := rfl
@[simp] theorem issue_bufBytes (w : Word) : (issue w s).bufBytes = s.bufBytes := rfl
@[simp] theorem issue_resets (w : Word) : (issue w s).resets = s.resets := rfl
@[simp] theorem issue_inputs (w : Word) : (issue w s).inputs = s.inputs := rfl
@[simp] theorem issue_replies (w : Word) : (issue w s).replies = s.replies := rfl
@[simp] theorem issue_len (w : Word) : (issue w s).len = s.len := rfl
@[simp] theorem issue_capacity (w : Word) : (issue w s).capacity = s.capacity := rfl
@[simp] theorem issue_buf (w : Word) (b : Buf) : (issue w s).buf b = s.buf b := rfl
@[simp] theorem issue_readByte (w : Word) (b : Buf) (i : Nat) : (issue w s).readByte b i = s.readByte b i := rfl
@[simp] theorem issue_reader (w : Word) (b : Buf) : (issue w s).readByte b = s.readByte b := rfl

/-! ### completeOk -/

@[simp] theorem completeOk_done : (completeOk s).done = true := rfl
@[simp] theorem completeOk_err : (completeOk s).err = false := rfl
@[simp] theorem completeOk_ecode : (completeOk s).ecode = none := rfl
@[simp] theorem completeOk_doneie : (completeOk s).doneie = s.doneie := rfl
@[simp] theorem completeOk_mlen : (completeOk s).mlen = s.mlen := rfl
@[simp] theorem completeOk_olen : (completeOk s).olen = s.olen := rfl
@[simp] theorem completeOk_key : (completeOk s).key = s.key := rfl
@[simp] theorem completeOk_v0 : (completeOk s).v0 = s.v0 := rfl
@[simp] theorem completeOk_v1 : (completeOk s).v1 = s.v1 := rfl
@[simp] theorem completeOk_abuf : (completeOk s).abuf = s.abuf := rfl
@[simp] theorem completeOk_bbuf : (completeOk s).bbuf = s.bbuf := rfl
@[simp] theorem completeOk_phase : (completeOk s).phase = .idle := rfl
@[simp] theorem completeOk_pend : (completeOk s).pend = s.pend := rfl
@[simp] theorem completeOk_resetHeld : (completeOk s).resetHeld = s.resetHeld := rfl
@[simp] theorem completeOk_bufBytes : (completeOk s).bufBytes = s.bufBytes := rfl
@[simp] theorem completeOk_resets : (completeOk s).resets = s.resets := rfl
@[simp] theorem completeOk_inputs : (completeOk s).inputs = s.inputs := rfl
@[simp] theorem completeOk_replies : (completeOk s).replies = s.replies := rfl
@[simp] theorem completeOk_len : (completeOk s).len = s.len := rfl
@[simp] theorem completeOk_capacity : (completeOk s).capacity = s.capacity := rfl
@[simp] theorem completeOk_buf (b : Buf) : (completeOk s).buf b = s.buf b := rfl
@[simp] theorem completeOk_readByte (b : Buf) (i : Nat) : (completeOk s).readByte b i = s.readByte b i := rfl
@[simp] theorem completeOk_reader (b : Buf) : (completeOk s).readByte b = s.readByte b := rfl

/-! ### recordError -/

@[simp] theorem recordError_done (c : CmdError) : (recordError c s).done = true := rfl
@[simp] theorem recordError_err (c : CmdError) : (recordError c s).err = true := rfl
@[simp] theorem recordError_ecode (c : CmdError) : (recordError c s).ecode = some c := rfl
@[simp] theorem recordError_doneie (c : CmdError) : (recordError c s).doneie = s.doneie := rfl
@[simp] theorem recordError_mlen (c : CmdError) : (recordError c s).mlen = s.mlen := rfl
@[simp] theorem recordError_olen (c : CmdError) : (recordError c s).olen = s.olen := rfl
@[simp] theorem recordError_key (c : CmdError) : (recordError c s).key = s.key := rfl
@[simp] theorem recordError_v0 (c : CmdError) : (recordError c s).v0 = s.v0 := rfl
@[simp] theorem recordError_v1 (c : CmdError) : (recordError c s).v1 = s.v1 := rfl
@[simp] theorem recordError_abuf (c : CmdError) : (recordError c s).abuf = s.abuf := rfl
@[simp] theorem recordError_bbuf (c : CmdError) : (recordError c s).bbuf = s.bbuf := rfl
@[simp] theorem recordError_phase (c : CmdError) : (recordError c s).phase = .idle := rfl
@[simp] theorem recordError_pend (c : CmdError) : (recordError c s).pend = s.pend := rfl
@[simp] theorem recordError_resetHeld (c : CmdError) : (recordError c s).resetHeld = s.resetHeld := rfl
@[simp] theorem recordError_bufBytes (c : CmdError) : (recordError c s).bufBytes = s.bufBytes := rfl
@[simp] theorem recordError_resets (c : CmdError) : (recordError c s).resets = s.resets := rfl
@[simp] theorem recordError_inputs (c : CmdError) : (recordError c s).inputs = s.inputs := rfl
@[simp] theorem recordError_replies (c : CmdError) : (recordError c s).replies = s.replies := rfl
@[simp] theorem recordError_len (c : CmdError) : (recordError c s).len = s.len := rfl
@[simp] theorem recordError_capacity (c : CmdError) : (recordError c s).capacity = s.capacity := rfl
@[simp] theorem recordError_buf (c : CmdError) (b : Buf) : (recordError c s).buf b = s.buf b := rfl
@[simp] theorem recordError_readByte (c : CmdError) (b : Buf) (i : Nat) : (recordError c s).readByte b i = s.readByte b i := rfl
@[simp] theorem recordError_reader (c : CmdError) (b : Buf) : (recordError c s).readByte b = s.readByte b := rfl

/-! ### resetEvent -/

@[simp] theorem resetEvent_done : (resetEvent s).done = false := rfl
@[simp] theorem resetEvent_err : (resetEvent s).err = false := rfl
@[simp] theorem resetEvent_ecode : (resetEvent s).ecode = none := rfl
@[simp] theorem resetEvent_doneie : (resetEvent s).doneie = false := rfl
@[simp] theorem resetEvent_mlen : (resetEvent s).mlen = 0 := rfl
@[simp] theorem resetEvent_olen : (resetEvent s).olen = 0 := rfl
@[simp] theorem resetEvent_key : (resetEvent s).key = ⟨0, 0, 0, 0⟩ := rfl
@[simp] theorem resetEvent_v0 : (resetEvent s).v0 = 0 := rfl
@[simp] theorem resetEvent_v1 : (resetEvent s).v1 = 0 := rfl
@[simp] theorem resetEvent_abuf : (resetEvent s).abuf = [] := rfl
@[simp] theorem resetEvent_bbuf : (resetEvent s).bbuf = [] := rfl
@[simp] theorem resetEvent_phase : (resetEvent s).phase = .idle := rfl
@[simp] theorem resetEvent_pend : (resetEvent s).pend = 0 := rfl
@[simp] theorem resetEvent_resetHeld : (resetEvent s).resetHeld = true := rfl
@[simp] theorem resetEvent_bufBytes : (resetEvent s).bufBytes = s.bufBytes := rfl
@[simp] theorem resetEvent_resets : (resetEvent s).resets = s.resets + 1 := rfl
@[simp] theorem resetEvent_inputs : (resetEvent s).inputs = s.inputs := rfl
@[simp] theorem resetEvent_replies : (resetEvent s).replies = s.replies := rfl
@[simp] theorem resetEvent_capacity : (resetEvent s).capacity = s.capacity := rfl

/-! ### releaseReset -/

@[simp] theorem releaseReset_done : (releaseReset s).done = s.done := rfl
@[simp] theorem releaseReset_err : (releaseReset s).err = s.err := rfl
@[simp] theorem releaseReset_ecode : (releaseReset s).ecode = s.ecode := rfl
@[simp] theorem releaseReset_doneie : (releaseReset s).doneie = s.doneie := rfl
@[simp] theorem releaseReset_mlen : (releaseReset s).mlen = s.mlen := rfl
@[simp] theorem releaseReset_olen : (releaseReset s).olen = s.olen := rfl
@[simp] theorem releaseReset_key : (releaseReset s).key = s.key := rfl
@[simp] theorem releaseReset_v0 : (releaseReset s).v0 = s.v0 := rfl
@[simp] theorem releaseReset_v1 : (releaseReset s).v1 = s.v1 := rfl
@[simp] theorem releaseReset_abuf : (releaseReset s).abuf = s.abuf := rfl
@[simp] theorem releaseReset_bbuf : (releaseReset s).bbuf = s.bbuf := rfl
@[simp] theorem releaseReset_phase : (releaseReset s).phase = s.phase := rfl
@[simp] theorem releaseReset_pend : (releaseReset s).pend = s.pend := rfl
@[simp] theorem releaseReset_resetHeld : (releaseReset s).resetHeld = false := rfl
@[simp] theorem releaseReset_bufBytes : (releaseReset s).bufBytes = s.bufBytes := rfl
@[simp] theorem releaseReset_resets : (releaseReset s).resets = s.resets := rfl
@[simp] theorem releaseReset_inputs : (releaseReset s).inputs = s.inputs := rfl
@[simp] theorem releaseReset_replies : (releaseReset s).replies = s.replies := rfl
@[simp] theorem releaseReset_len : (releaseReset s).len = s.len := rfl
@[simp] theorem releaseReset_capacity : (releaseReset s).capacity = s.capacity := rfl
@[simp] theorem releaseReset_buf (b : Buf) : (releaseReset s).buf b = s.buf b := rfl
@[simp] theorem releaseReset_readByte (b : Buf) (i : Nat) : (releaseReset s).readByte b i = s.readByte b i := rfl
@[simp] theorem releaseReset_reader (b : Buf) : (releaseReset s).readByte b = s.readByte b := rfl

/-! ### setInputs -/

@[simp] theorem setInputs_done (l : List Input) : (setInputs l s).done = s.done := rfl
@[simp] theorem setInputs_err (l : List Input) : (setInputs l s).err = s.err := rfl
@[simp] theorem setInputs_ecode (l : List Input) : (setInputs l s).ecode = s.ecode := rfl
@[simp] theorem setInputs_doneie (l : List Input) : (setInputs l s).doneie = s.doneie := rfl
@[simp] theorem setInputs_mlen (l : List Input) : (setInputs l s).mlen = s.mlen := rfl
@[simp] theorem setInputs_olen (l : List Input) : (setInputs l s).olen = s.olen := rfl
@[simp] theorem setInputs_key (l : List Input) : (setInputs l s).key = s.key := rfl
@[simp] theorem setInputs_v0 (l : List Input) : (setInputs l s).v0 = s.v0 := rfl
@[simp] theorem setInputs_v1 (l : List Input) : (setInputs l s).v1 = s.v1 := rfl
@[simp] theorem setInputs_abuf (l : List Input) : (setInputs l s).abuf = s.abuf := rfl
@[simp] theorem setInputs_bbuf (l : List Input) : (setInputs l s).bbuf = s.bbuf := rfl
@[simp] theorem setInputs_phase (l : List Input) : (setInputs l s).phase = s.phase := rfl
@[simp] theorem setInputs_pend (l : List Input) : (setInputs l s).pend = s.pend := rfl
@[simp] theorem setInputs_resetHeld (l : List Input) : (setInputs l s).resetHeld = s.resetHeld := rfl
@[simp] theorem setInputs_bufBytes (l : List Input) : (setInputs l s).bufBytes = s.bufBytes := rfl
@[simp] theorem setInputs_resets (l : List Input) : (setInputs l s).resets = s.resets := rfl
@[simp] theorem setInputs_inputs (l : List Input) : (setInputs l s).inputs = l := rfl
@[simp] theorem setInputs_replies (l : List Input) : (setInputs l s).replies = s.replies := rfl
@[simp] theorem setInputs_len (l : List Input) : (setInputs l s).len = s.len := rfl
@[simp] theorem setInputs_capacity (l : List Input) : (setInputs l s).capacity = s.capacity := rfl
@[simp] theorem setInputs_buf (l : List Input) (b : Buf) : (setInputs l s).buf b = s.buf b := rfl
@[simp] theorem setInputs_readByte (l : List Input) (b : Buf) (i : Nat) : (setInputs l s).readByte b i = s.readByte b i := rfl
@[simp] theorem setInputs_reader (l : List Input) (b : Buf) : (setInputs l s).readByte b = s.readByte b := rfl

/-! ### giveReply -/

@[simp] theorem giveReply_done (r : Reply) : (giveReply r s).done = s.done := rfl
@[simp] theorem giveReply_err (r : Reply) : (giveReply r s).err = s.err := rfl
@[simp] theorem giveReply_ecode (r : Reply) : (giveReply r s).ecode = s.ecode := rfl
@[simp] theorem giveReply_doneie (r : Reply) : (giveReply r s).doneie = s.doneie := rfl
@[simp] theorem giveReply_mlen (r : Reply) : (giveReply r s).mlen = s.mlen := rfl
@[simp] theorem giveReply_olen (r : Reply) : (giveReply r s).olen = s.olen := rfl
@[simp] theorem giveReply_key (r : Reply) : (giveReply r s).key = s.key := rfl
@[simp] theorem giveReply_v0 (r : Reply) : (giveReply r s).v0 = s.v0 := rfl
@[simp] theorem giveReply_v1 (r : Reply) : (giveReply r s).v1 = s.v1 := rfl
@[simp] theorem giveReply_abuf (r : Reply) : (giveReply r s).abuf = s.abuf := rfl
@[simp] theorem giveReply_bbuf (r : Reply) : (giveReply r s).bbuf = s.bbuf := rfl
@[simp] theorem giveReply_phase (r : Reply) : (giveReply r s).phase = s.phase := rfl
@[simp] theorem giveReply_pend (r : Reply) : (giveReply r s).pend = s.pend := rfl
@[simp] theorem giveReply_resetHeld (r : Reply) : (giveReply r s).resetHeld = s.resetHeld := rfl
@[simp] theorem giveReply_bufBytes (r : Reply) : (giveReply r s).bufBytes = s.bufBytes := rfl
@[simp] theorem giveReply_resets (r : Reply) : (giveReply r s).resets = s.resets := rfl
@[simp] theorem giveReply_inputs (r : Reply) : (giveReply r s).inputs = s.inputs := rfl
@[simp] theorem giveReply_replies (r : Reply) : (giveReply r s).replies = r :: s.replies := rfl
@[simp] theorem giveReply_len (r : Reply) : (giveReply r s).len = s.len := rfl
@[simp] theorem giveReply_capacity (r : Reply) : (giveReply r s).capacity = s.capacity := rfl
@[simp] theorem giveReply_buf (r : Reply) (b : Buf) : (giveReply r s).buf b = s.buf b := rfl
@[simp] theorem giveReply_readByte (r : Reply) (b : Buf) (i : Nat) : (giveReply r s).readByte b i = s.readByte b i := rfl
@[simp] theorem giveReply_reader (r : Reply) (b : Buf) : (giveReply r s).readByte b = s.readByte b := rfl

/-! ### setBuf_abuf -/

@[simp] theorem setBuf_abuf_done (m : Memory) : (setBuf .abuf m s).done = s.done := rfl
@[simp] theorem setBuf_abuf_err (m : Memory) : (setBuf .abuf m s).err = s.err := rfl
@[simp] theorem setBuf_abuf_ecode (m : Memory) : (setBuf .abuf m s).ecode = s.ecode := rfl
@[simp] theorem setBuf_abuf_doneie (m : Memory) : (setBuf .abuf m s).doneie = s.doneie := rfl
@[simp] theorem setBuf_abuf_mlen (m : Memory) : (setBuf .abuf m s).mlen = s.mlen := rfl
@[simp] theorem setBuf_abuf_olen (m : Memory) : (setBuf .abuf m s).olen = s.olen := rfl
@[simp] theorem setBuf_abuf_key (m : Memory) : (setBuf .abuf m s).key = s.key := rfl
@[simp] theorem setBuf_abuf_v0 (m : Memory) : (setBuf .abuf m s).v0 = s.v0 := rfl
@[simp] theorem setBuf_abuf_v1 (m : Memory) : (setBuf .abuf m s).v1 = s.v1 := rfl
@[simp] theorem setBuf_abuf_abuf (m : Memory) : (setBuf .abuf m s).abuf = m := rfl
@[simp] theorem setBuf_abuf_bbuf (m : Memory) : (setBuf .abuf m s).bbuf = s.bbuf := rfl
@[simp] theorem setBuf_abuf_phase (m : Memory) : (setBuf .abuf m s).phase = s.phase := rfl
@[simp] theorem setBuf_abuf_pend (m : Memory) : (setBuf .abuf m s).pend = s.pend := rfl
@[simp] theorem setBuf_abuf_resetHeld (m : Memory) : (setBuf .abuf m s).resetHeld = s.resetHeld := rfl
@[simp] theorem setBuf_abuf_bufBytes (m : Memory) : (setBuf .abuf m s).bufBytes = s.bufBytes := rfl
@[simp] theorem setBuf_abuf_resets (m : Memory) : (setBuf .abuf m s).resets = s.resets := rfl
@[simp] theorem setBuf_abuf_inputs (m : Memory) : (setBuf .abuf m s).inputs = s.inputs := rfl
@[simp] theorem setBuf_abuf_replies (m : Memory) : (setBuf .abuf m s).replies = s.replies := rfl
@[simp] theorem setBuf_abuf_len (m : Memory) : (setBuf .abuf m s).len = s.len := rfl
@[simp] theorem setBuf_abuf_capacity (m : Memory) : (setBuf .abuf m s).capacity = s.capacity := rfl

/-! ### setBuf_bbuf -/

@[simp] theorem setBuf_bbuf_done (m : Memory) : (setBuf .bbuf m s).done = s.done := rfl
@[simp] theorem setBuf_bbuf_err (m : Memory) : (setBuf .bbuf m s).err = s.err := rfl
@[simp] theorem setBuf_bbuf_ecode (m : Memory) : (setBuf .bbuf m s).ecode = s.ecode := rfl
@[simp] theorem setBuf_bbuf_doneie (m : Memory) : (setBuf .bbuf m s).doneie = s.doneie := rfl
@[simp] theorem setBuf_bbuf_mlen (m : Memory) : (setBuf .bbuf m s).mlen = s.mlen := rfl
@[simp] theorem setBuf_bbuf_olen (m : Memory) : (setBuf .bbuf m s).olen = s.olen := rfl
@[simp] theorem setBuf_bbuf_key (m : Memory) : (setBuf .bbuf m s).key = s.key := rfl
@[simp] theorem setBuf_bbuf_v0 (m : Memory) : (setBuf .bbuf m s).v0 = s.v0 := rfl
@[simp] theorem setBuf_bbuf_v1 (m : Memory) : (setBuf .bbuf m s).v1 = s.v1 := rfl
@[simp] theorem setBuf_bbuf_abuf (m : Memory) : (setBuf .bbuf m s).abuf = s.abuf := rfl
@[simp] theorem setBuf_bbuf_bbuf (m : Memory) : (setBuf .bbuf m s).bbuf = m := rfl
@[simp] theorem setBuf_bbuf_phase (m : Memory) : (setBuf .bbuf m s).phase = s.phase := rfl
@[simp] theorem setBuf_bbuf_pend (m : Memory) : (setBuf .bbuf m s).pend = s.pend := rfl
@[simp] theorem setBuf_bbuf_resetHeld (m : Memory) : (setBuf .bbuf m s).resetHeld = s.resetHeld := rfl
@[simp] theorem setBuf_bbuf_bufBytes (m : Memory) : (setBuf .bbuf m s).bufBytes = s.bufBytes := rfl
@[simp] theorem setBuf_bbuf_resets (m : Memory) : (setBuf .bbuf m s).resets = s.resets := rfl
@[simp] theorem setBuf_bbuf_inputs (m : Memory) : (setBuf .bbuf m s).inputs = s.inputs := rfl
@[simp] theorem setBuf_bbuf_replies (m : Memory) : (setBuf .bbuf m s).replies = s.replies := rfl
@[simp] theorem setBuf_bbuf_len (m : Memory) : (setBuf .bbuf m s).len = s.len := rfl
@[simp] theorem setBuf_bbuf_capacity (m : Memory) : (setBuf .bbuf m s).capacity = s.capacity := rfl

/-! ### The buffers by name -/

@[simp] theorem buf_abuf : s.buf .abuf = s.abuf := rfl
@[simp] theorem buf_bbuf : s.buf .bbuf = s.bbuf := rfl
@[simp] theorem setOutput_readByte_abuf (m : Memory) (n i : Nat) : (setOutput m n s).readByte .abuf i = s.readByte .abuf i := rfl
@[simp] theorem setBuf_readByte_other (m : Memory) (i : Nat) : (setBuf .bbuf m s).readByte .abuf i = s.readByte .abuf i := rfl
@[simp] theorem setBuf_readByte_other' (m : Memory) (i : Nat) : (setBuf .abuf m s).readByte .bbuf i = s.readByte .bbuf i := rfl

end Sys2Proof.Machine
end

