-- ==== Sys2Proof/Laws/Commands.lean ====
section
/-!
SUPPORT. What each command's loop does to every byte of BBUF, the completion of a command, and, once for all commands, everything
`exec` can do.
-/
namespace Sys2Proof.Machine

/-! ### Lengths -/

theorem ceil8_mod (n : Nat) : ceil8 n % 8 = 0 := by unfold ceil8; omega

theorem le_ceil8 (n : Nat) : n ≤ ceil8 n := by unfold ceil8; omega

theorem capacity_mod (s : State) : s.capacity % 8 = 0 := s.bufBytes.property.2.2

theorem capacity_ge (s : State) : 32 ≤ s.capacity := s.bufBytes.property.1

theorem capacity_le (s : State) : s.capacity ≤ 4096 := s.bufBytes.property.2.1

/-- A padded message fits whenever the message does (60_exceptions.md R183). -/
theorem ceil8_le_capacity {s : State} {n : Nat} (h : n ≤ s.capacity) : ceil8 n ≤ s.capacity := by
  have := capacity_mod s
  unfold ceil8
  omega

/-! ### The loops -/

/-- What PAD's loop does to every byte. -/
theorem find_padLoop (B : Nat → Byte) (n : Nat) (m : Memory) (a : Nat) :
    (padLoop B n m).find a = if a < ceil8 n then some (padded B n a) else m.find a := by
  unfold padLoop
  generalize ceil8 n = k
  induction k with
  | zero => simp
  | succ k ih =>
    rw [loop_succ, find_memWrite, ih]
    by_cases h : a = k
    · subst h
      simp [byteOf]
    · rw [if_neg (by omega)]
      exact if_congr (by omega) rfl rfl

/-- Byte `a` of the blocks of `T` under `f`: a byte of word 0 or of word 1 of block a/8. -/
def blockByte (f : Word → Word → Word × Word) (T : Nat → Byte) (a : Nat) : Byte :=
  let e := f (memRead4 T (8 * (a / 8))) (memRead4 T (8 * (a / 8) + 4))
  if a % 8 < 4 then byteOf e.1 (a % 8) else byteOf e.2 (a % 8 - 4)

/-- What the block loop of MENC and MDEC does to every byte. -/
theorem find_blockLoop (f : Word → Word → Word × Word) (T : Nat → Byte) (blocks : Nat) (m : Memory) (a : Nat) :
    (blockLoop f T blocks m).find a = if a < 8 * blocks then some (blockByte f T a) else m.find a := by
  unfold blockLoop
  induction blocks with
  | zero => simp
  | succ k ih =>
    rw [loop_succ]
    simp only [find_memWrite]
    rw [ih]
    by_cases h : a < 8 * k
    · rw [if_neg (by omega), if_neg (by omega), if_pos h, if_pos (by omega)]
    · by_cases h' : a < 8 * (k + 1)
      · have e : a / 8 = k := by omega
        rw [if_pos h', blockByte, e]
        by_cases hw : a % 8 < 4
        · rw [if_neg (by omega), if_pos (by omega), if_pos hw, show a - 8 * k = a % 8 by omega]
        · rw [if_pos (by omega), if_neg hw, show a - (8 * k + 4) = a % 8 - 4 by omega]
      · rw [if_neg (by omega), if_neg (by omega), if_neg h, if_neg h']

/-- Byte `a` of the text of the bytes of `B` (44_hex_codec.md R155). -/
def textByte (B : Nat → Byte) (a : Nat) : Byte :=
  if a % 3 = 0 then hexChar ((B (a / 3)).extractLsb' 4 4)
  else if a % 3 = 1 then hexChar ((B (a / 3)).extractLsb' 0 4)
  else space

theorem byteOf_byte (v : Byte) : byteOf v 0 = v := by simp [byteOf]

/-- What one byte of B2H's loop does to every byte. -/
theorem find_b2hByte (B : Nat → Byte) (n i : Nat) (m : Memory) (a : Nat) :
    (b2hByte B n i m).find a =
      if a = 3 * i ∨ a = 3 * i + 1 ∨ (a = 3 * i + 2 ∧ i < n - 1) then some (textByte B a) else m.find a := by
  have two : Memory.find
      (memWrite 1 (3 * i + 1) (hexChar ((B i).extractLsb' 0 4)) (memWrite 1 (3 * i) (hexChar ((B i).extractLsb' 4 4)) m)) a =
      if a = 3 * i ∨ a = 3 * i + 1 then some (textByte B a) else m.find a := by
    rw [find_memWrite, find_memWrite]
    by_cases h1 : a = 3 * i + 1
    · rw [if_pos (by omega), if_pos (by omega), textByte, if_neg (by omega), if_pos (by omega),
        show a / 3 = i by omega, show a - (3 * i + 1) = 0 by omega, byteOf_byte]
    · by_cases h0 : a = 3 * i
      · rw [if_neg (by omega), if_pos (by omega), if_pos (by omega), textByte, if_pos (by omega),
          show a / 3 = i by omega, show a - 3 * i = 0 by omega, byteOf_byte]
      · rw [if_neg (by omega), if_neg (by omega), if_neg (by omega)]
  unfold b2hByte
  dsimp only
  split
  · rename_i hi
    rw [find_memWrite, two]
    by_cases h2 : a = 3 * i + 2
    · rw [if_pos (by omega), if_pos (.inr (.inr ⟨h2, hi⟩)), textByte, if_neg (by omega), if_neg (by omega),
        show a - (3 * i + 2) = 0 by omega, byteOf_byte]
    · rw [if_neg (by omega)]
      exact if_congr (by omega) rfl rfl
  · rw [two]
    exact if_congr (by omega) rfl rfl

/-- What B2H's loop does to every byte. -/
theorem find_b2hLoop (B : Nat → Byte) (n : Nat) (m : Memory) (a : Nat) :
    (b2hLoop B n m).find a = if a < hexLen n then some (textByte B a) else m.find a := by
  have rounds := loop_induction (body := b2hByte B n) (a := m)
    (fun k q => Memory.find q a = if a < 3 * k ∧ a < 3 * n - 1 then some (textByte B a) else m.find a)
    (by simp) n
    (fun k q hk ih => by
      rw [find_b2hByte, ih]
      by_cases h : a = 3 * k ∨ a = 3 * k + 1 ∨ (a = 3 * k + 2 ∧ k < n - 1)
      · rw [if_pos h, if_pos (by omega)]
      · rw [if_neg h]
        exact if_congr (by omega) rfl rfl)
  rw [b2hLoop, rounds]
  refine if_congr ?_ rfl rfl
  unfold hexLen
  split <;> omega

/-- What H2B's loop does to every byte. -/
theorem find_h2bLoop (B : Nat → Byte) (bytes : Nat) (m : Memory) (a : Nat) :
    (h2bLoop B bytes m).find a = if a < bytes then some (digit (B (2 * a)) ++ digit (B (2 * a + 1))) else m.find a := by
  unfold h2bLoop
  induction bytes with
  | zero => simp
  | succ k ih =>
    rw [loop_succ, find_memWrite, ih]
    by_cases h : a = k
    · subst h
      simp [byteOf]
    · rw [if_neg (by omega)]
      exact if_congr (by omega) rfl rfl

/-! ### The loops keep the canonical form -/

theorem padLoop_wf {B : Nat → Byte} {n capacity : Nat} {m : Memory} (hm : m.wf capacity) (h : ceil8 n ≤ capacity) :
    (padLoop B n m).wf capacity :=
  loop_keeps (fun m => Memory.wf m capacity) hm _ fun _ _ hk hb => memWrite_wf _ hb (by omega)

theorem blockLoop_wf {f : Word → Word → Word × Word} {T : Nat → Byte} {blocks capacity : Nat} {m : Memory}
    (hm : m.wf capacity) (h : 8 * blocks ≤ capacity) : (blockLoop f T blocks m).wf capacity :=
  loop_keeps (fun m => Memory.wf m capacity) hm _ fun _ _ hk hb =>
    memWrite_wf _ (memWrite_wf _ hb (by omega)) (by omega)

theorem b2hLoop_wf {B : Nat → Byte} {n capacity : Nat} {m : Memory} (hm : m.wf capacity) (h : hexLen n ≤ capacity) :
    (b2hLoop B n m).wf capacity :=
  loop_keeps (fun m => Memory.wf m capacity) hm _ fun k b hk hb => by
    have hl : hexLen n = 3 * n - 1 := by unfold hexLen; split <;> omega
    unfold b2hByte
    dsimp only
    split
    · exact memWrite_wf _ (memWrite_wf _ (memWrite_wf _ hb (by omega)) (by omega)) (by omega)
    · exact memWrite_wf _ (memWrite_wf _ hb (by omega)) (by omega)

theorem h2bLoop_wf {B : Nat → Byte} {bytes capacity : Nat} {m : Memory} (hm : m.wf capacity) (h : bytes ≤ capacity) :
    (h2bLoop B bytes m).wf capacity :=
  loop_keeps (fun m => Memory.wf m capacity) hm _ fun _ _ hk hb => memWrite_wf _ hb (by omega)

/-! ### Completion -/

@[simp] theorem finish_ok (s t : State) : finish s (.ok t) = .next (completeOk t) := rfl

@[simp] theorem finish_error (s : State) (c : CmdError) : finish s (.error c) = .next (recordError c s) := rfl

/-- What a command's EXEC can give: an error, or the state with the effects its kind of command has. -/
inductive Effect (s : State) (i : Instr) : State → Prop where
  /-- an error is recorded and nothing else happens -/
  | failed (c : CmdError) : Effect s i (recordError c s)
  /-- NOP: nothing beyond completion -/
  | nothing (h : i = .nop) : Effect s i (completeOk s)
  /-- ENC and DEC: the block registers -/
  | block (h : i = .enc ∨ i = .dec) (e : Word × Word) : Effect s i (completeOk (setBlock e s))
  /-- KEYHEX and KEYRAW: the key registers -/
  | key (h : i = .keyhex ∨ i = .keyraw) (k : Key) : Effect s i (completeOk (setKey k s))
  /-- the buffer-producing commands: BBUF below the new length, and OLEN -/
  | output (h : i = .pad ∨ i = .menc ∨ i = .mdec ∨ i = .b2h ∨ i = .h2b) (m : Memory) (n : Nat) (hn : n ≤ s.capacity)
      (hm : s.bbuf.wf s.capacity → m.wf s.capacity) (tail : ∀ a, n ≤ a → m.find a = s.bbuf.find a) :
      Effect s i (completeOk (setOutput m n s))

theorem execPad_effect (s : State) : ∃ t, execPad s = .next t ∧ Effect s .pad t := by
  unfold execPad runPad
  split
  · exact ⟨_, rfl, .failed _⟩
  · refine ⟨_, rfl, .output (.inl rfl) _ _ (ceil8_le_capacity (by omega))
      (fun h => padLoop_wf h (ceil8_le_capacity (by omega))) fun a ha => ?_⟩
    rw [find_padLoop, if_neg (by omega)]

theorem execMenc_effect (s : State) : ∃ t, execMenc s = .next t ∧ Effect s .menc t := by
  unfold execMenc runMenc
  split
  · exact ⟨_, rfl, .failed _⟩
  · have hc := ceil8_mod s.len
    have hl : ceil8 s.len ≤ s.capacity := ceil8_le_capacity (by omega)
    refine ⟨_, rfl, .output (.inr (.inl rfl)) _ _ hl (fun h => blockLoop_wf h (by omega)) fun a ha => ?_⟩
    rw [find_blockLoop, if_neg (by omega)]

theorem execMdec_effect (s : State) : ∃ t, execMdec s = .next t ∧ Effect s .mdec t := by
  unfold execMdec runMdec
  split
  · exact ⟨_, rfl, .failed _⟩
  · split
    · exact ⟨_, rfl, .failed _⟩
    · refine ⟨_, rfl, .output (.inr (.inr (.inl rfl))) _ _ (by omega) (fun h => blockLoop_wf h (by omega))
        fun a ha => ?_⟩
      rw [find_blockLoop, if_neg (by omega)]

theorem execB2h_effect (s : State) : ∃ t, execB2h s = .next t ∧ Effect s .b2h t := by
  unfold execB2h runB2h
  split
  · exact ⟨_, rfl, .failed _⟩
  · split
    · exact ⟨_, rfl, .failed _⟩
    · refine ⟨_, rfl, .output (.inr (.inr (.inr (.inl rfl)))) _ _ (by omega) (fun h => b2hLoop_wf h (by omega))
        fun a ha => ?_⟩
      rw [find_b2hLoop, if_neg (by omega)]

theorem execH2b_effect (s : State) : ∃ t, execH2b s = .next t ∧ Effect s .h2b t := by
  unfold execH2b runH2b
  split
  · exact ⟨_, rfl, .failed _⟩
  · split
    · exact ⟨_, rfl, .failed _⟩
    · split
      · exact ⟨_, rfl, .failed _⟩
      · refine ⟨_, rfl, .output (.inr (.inr (.inr (.inr rfl)))) _ _ (by omega) (fun h => h2bLoop_wf h (by omega))
          fun a ha => ?_⟩
        rw [find_h2bLoop, if_neg (by omega)]

theorem execKeyhex_effect (s : State) : ∃ t, execKeyhex s = .next t ∧ Effect s .keyhex t := by
  unfold execKeyhex runKeyhex
  split
  · exact ⟨_, rfl, .failed _⟩
  · split
    · exact ⟨_, rfl, .failed _⟩
    · exact ⟨_, rfl, .key (.inl rfl) _⟩

/-- Everything `exec` can do: it always answers a next state, with one of the effects above. -/
theorem exec_effect (i : Instr) (s : State) : ∃ t, exec i s = .next t ∧ Effect s i t := by
  cases i with
  | nop => exact ⟨_, rfl, .nothing rfl⟩
  | enc => exact ⟨_, rfl, .block (.inl rfl) _⟩
  | dec => exact ⟨_, rfl, .block (.inr rfl) _⟩
  | keyhex => exact execKeyhex_effect s
  | keyraw => exact ⟨_, rfl, .key (.inr rfl) _⟩
  | pad => exact execPad_effect s
  | menc => exact execMenc_effect s
  | mdec => exact execMdec_effect s
  | b2h => exact execB2h_effect s
  | h2b => exact execH2b_effect s
  | illegal w => exact ⟨_, rfl, .failed _⟩

/-- The inversion of `exec`: if it answers `t`, then `t` is one of the effects above. -/
theorem exec_cases {i : Instr} {s t : State} (h : exec i s = .next t) : Effect s i t := by
  obtain ⟨u, hu, he⟩ := exec_effect i s
  rw [hu] at h
  cases h
  exact he

/-! ### What a command does not look at -/

/-- `s` with the parts that belong to the host: DONEIE, the inputs to come, the replies given. -/
def withHost (d : Bool) (l : List Input) (r : List Reply) (s : State) : State :=
  { s with doneie := d, inputs := l, replies := r }

/-- The outcome of the completion of an EXEC that the host's parts pass through unchanged. -/
theorem finish_withHost (d : Bool) (l : List Input) (r : List Reply) {s t : State} {e e' : Except CmdError State}
    (he : (∃ c, e = .error c ∧ e' = .error c) ∨ (∃ u, e = .ok u ∧ e' = .ok (withHost d l r u)))
    (h : finish s e = .next t) : finish (withHost d l r s) e' = .next (withHost d l r t) := by
  rcases he with ⟨c, rfl, rfl⟩ | ⟨u, rfl, rfl⟩ <;> cases h <;> rfl

/-- A command neither reads nor writes DONEIE, the inputs and the replies. -/
theorem exec_withHost (d : Bool) (l : List Input) (r : List Reply) {i : Instr} {s t : State} (h : exec i s = .next t) :
    exec i (withHost d l r s) = .next (withHost d l r t) := by
  cases i with
  | nop => exact finish_withHost (s := s) d l r (.inr ⟨s, rfl, rfl⟩) h
  | enc => exact finish_withHost (s := s) d l r (.inr ⟨setBlock (teaEnc s.v0 s.v1 s.key) s, rfl, rfl⟩) h
  | dec => exact finish_withHost (s := s) d l r (.inr ⟨setBlock (teaDec s.v0 s.v1 s.key) s, rfl, rfl⟩) h
  | keyraw => exact finish_withHost (s := s) d l r (.inr ⟨setKey (rawKey (s.readByte .abuf)) s, rfl, rfl⟩) h
  | illegal w => exact finish_withHost (s := s) d l r (.inl ⟨.illegalCommand, rfl, rfl⟩) h
  | keyhex =>
    refine finish_withHost d l r ?_ h
    show (∃ c, runKeyhex s = _ ∧ runKeyhex (withHost d l r s) = _) ∨ _
    unfold runKeyhex
    rw [show (withHost d l r s).len = s.len from rfl,
      show (withHost d l r s).readByte .abuf = s.readByte .abuf from rfl]
    split
    · exact .inl ⟨_, rfl, rfl⟩
    · split
      · exact .inl ⟨_, rfl, rfl⟩
      · exact .inr ⟨_, rfl, rfl⟩
  | pad =>
    refine finish_withHost d l r ?_ h
    show (∃ c, runPad s = _ ∧ runPad (withHost d l r s) = _) ∨ _
    unfold runPad
    rw [show (withHost d l r s).len = s.len from rfl, show (withHost d l r s).capacity = s.capacity from rfl]
    split
    · exact .inl ⟨_, rfl, rfl⟩
    · exact .inr ⟨_, rfl, rfl⟩
  | menc =>
    refine finish_withHost d l r ?_ h
    show (∃ c, runMenc s = _ ∧ runMenc (withHost d l r s) = _) ∨ _
    unfold runMenc
    rw [show (withHost d l r s).len = s.len from rfl, show (withHost d l r s).capacity = s.capacity from rfl]
    split
    · exact .inl ⟨_, rfl, rfl⟩
    · exact .inr ⟨_, rfl, rfl⟩
  | mdec =>
    refine finish_withHost d l r ?_ h
    show (∃ c, runMdec s = _ ∧ runMdec (withHost d l r s) = _) ∨ _
    unfold runMdec
    rw [show (withHost d l r s).len = s.len from rfl, show (withHost d l r s).capacity = s.capacity from rfl]
    split
    · exact .inl ⟨_, rfl, rfl⟩
    · split
      · exact .inl ⟨_, rfl, rfl⟩
      · exact .inr ⟨_, rfl, rfl⟩
  | b2h =>
    refine finish_withHost d l r ?_ h
    show (∃ c, runB2h s = _ ∧ runB2h (withHost d l r s) = _) ∨ _
    unfold runB2h
    rw [show (withHost d l r s).len = s.len from rfl, show (withHost d l r s).capacity = s.capacity from rfl]
    split
    · exact .inl ⟨_, rfl, rfl⟩
    · split
      · exact .inl ⟨_, rfl, rfl⟩
      · exact .inr ⟨_, rfl, rfl⟩
  | h2b =>
    refine finish_withHost d l r ?_ h
    show (∃ c, runH2b s = _ ∧ runH2b (withHost d l r s) = _) ∨ _
    unfold runH2b
    rw [show (withHost d l r s).len = s.len from rfl, show (withHost d l r s).capacity = s.capacity from rfl,
      show (withHost d l r s).readByte .abuf = s.readByte .abuf from rfl]
    split
    · exact .inl ⟨_, rfl, rfl⟩
    · split
      · exact .inl ⟨_, rfl, rfl⟩
      · split
        · exact .inl ⟨_, rfl, rfl⟩
        · exact .inr ⟨_, rfl, rfl⟩

end Sys2Proof.Machine
end

