-- ==== Sys2Proof/Laws/HostPort.lean ====
section
/-!
SUPPORT. Everything an access at the host port can do, said once.
-/
namespace Sys2Proof.Machine

/-! ### The address map -/

theorem target_cmd (capacity : Nat) : target capacity 0x000 = some .cmd := rfl

theorem target_status (capacity : Nat) : target capacity 0x004 = some .status := rfl

theorem target_inten (capacity : Nat) : target capacity 0x008 = some .inten := rfl

theorem target_mlen (capacity : Nat) : target capacity 0x00C = some .mlen := rfl

theorem target_olen (capacity : Nat) : target capacity 0x010 = some .olen := rfl

theorem target_key0 (capacity : Nat) : target capacity 0x020 = some .key0 := rfl

theorem target_key1 (capacity : Nat) : target capacity 0x024 = some .key1 := rfl

theorem target_key2 (capacity : Nat) : target capacity 0x028 = some .key2 := rfl

theorem target_key3 (capacity : Nat) : target capacity 0x02C = some .key3 := rfl

theorem target_v0 (capacity : Nat) : target capacity 0x030 = some .v0 := rfl

theorem target_v1 (capacity : Nat) : target capacity 0x034 = some .v1 := rfl

theorem target_abuf {capacity i : Nat} (hi : i < 0x1000) :
    target capacity (abufBase + i) = if i + 4 ≤ capacity then some (.word .abuf i) else none := by
  unfold target abufBase windowSize
  rw [if_neg (by omega), if_pos (by omega), Nat.add_sub_cancel_left]

theorem target_bbuf {capacity i : Nat} (hi : i < 0x1000) :
    target capacity (bbufBase + i) = if i + 4 ≤ capacity then some (.word .bbuf i) else none := by
  unfold target abufBase bbufBase windowSize
  rw [if_neg (by omega), if_neg (by omega), if_pos (by omega), Nat.add_sub_cancel_left]

/-! ### Admission and access -/

/-- What an access leaves and answers. -/
inductive AccessEffect (s : State) (a : Access) : State × Reply → Prop where
  /-- not admitted: nothing changes, the response is ERROR -/
  | error (e : BusError) (h : admission s a = .error e) : AccessEffect s a (s, errorReply s a.kind)
  /-- an admitted READ: nothing changes -/
  | read (t : Target) (h : admission s a = .ok t) (hk : a.kind = .read) :
      AccessEffect s a (s, ⟨.okay, some (readTarget s t)⟩)
  /-- an admitted WRITE: its target's effect -/
  | write (t : Target) (h : admission s a = .ok t) (hk : a.kind = .write) :
      AccessEffect s a (writeTarget s t a.wdata, ⟨.okay, none⟩)

theorem access_effect (s : State) (a : Access) : AccessEffect s a (access s a) := by
  unfold access
  split
  · exact .error _ ‹_›
  · split
    · exact .read _ ‹_› ‹_›
    · exact .write _ ‹_› ‹_›

@[simp] theorem errorReply_resp (s : State) (k : AccessKind) : (errorReply s k).resp = .error := by
  cases k <;> rfl

/-- A mapped buffer word lies inside the buffer (20_memory.md R56). -/
theorem target_word {capacity offset : Nat} {b : Buf} {i : Nat} (h : target capacity offset = some (.word b i)) :
    i + 4 ≤ capacity := by
  unfold target at h
  split at h
  · simp only [registerMap, List.lookup] at h
    repeat' (split at h <;> try cases h)
  · split at h
    · split at h
      · cases h; omega
      · cases h
    · split at h
      · split at h
        · cases h; omega
        · cases h
      · cases h

/-- What admission says of an admitted access (60_exceptions.md R188). -/
theorem admission_ok {s : State} {a : Access} {t : Target} (h : admission s a = .ok t) :
    a.size = 4 ∧ a.offset % 4 = 0 ∧ target s.capacity a.offset = some t ∧
      (s.phase = .busy → admittedBusy a.kind t = true) ∧ (a.kind = .write → t.readOnly = false) := by
  unfold admission at h
  split at h
  · cases h
  · rename_i h1
    split at h
    · cases h
    · rename_i h2
      split at h
      · cases h
      · rename_i u hu
        split at h
        · cases h
        · rename_i h3
          split at h
          · cases h
          · rename_i h4
            cases h
            refine ⟨by simpa using h1, by simpa using h2, hu, fun hb => ?_, fun hw => ?_⟩
            · simpa [State.busy, hb] using h3
            · simpa [hw] using h4

/-- When an access is admitted. -/
theorem admission_eq_ok {s : State} {a : Access} {t : Target} (hs : a.size = 4) (ho : a.offset % 4 = 0)
    (ht : target s.capacity a.offset = some t) (hb : s.phase = .busy → admittedBusy a.kind t = true)
    (hw : a.kind = .write → t.readOnly = false) : admission s a = .ok t := by
  have h : (s.busy && !admittedBusy a.kind t) = false := by
    cases hp : s.phase with
    | idle => simp [State.busy, hp]
    | busy => simp [hb hp]
  unfold admission
  rw [if_neg (by simp [hs]), if_neg (by simp [ho]), ht]
  simp only [h]
  rw [if_neg (by simp), if_neg]
  rintro ⟨hk, hr⟩
  rw [hw hk] at hr
  cases hr

/-- An admitted READ. -/
theorem access_read {s : State} {a : Access} {t : Target} (h : admission s a = .ok t) (hk : a.kind = .read) :
    access s a = (s, ⟨.okay, some (readTarget s t)⟩) := by
  unfold access
  rw [h, hk]

/-- An admitted WRITE. -/
theorem access_write {s : State} {a : Access} {t : Target} (h : admission s a = .ok t) (hk : a.kind = .write) :
    access s a = (writeTarget s t a.wdata, ⟨.okay, none⟩) := by
  unfold access
  rw [h, hk]

/-- An access that is not admitted. -/
theorem access_error {s : State} {a : Access} {e : BusError} (h : admission s a = .error e) :
    access s a = (s, errorReply s a.kind) := by
  unfold access
  rw [h]

/-- A WRITE that is admitted while busy goes to INTEN (20_memory.md R60). -/
theorem admittedBusy_write {t : Target} (h : admittedBusy .write t = true) : t = .inten := by
  cases t <;> simp_all [admittedBusy]

/-- An admitted WRITE keeps the canonical form of each buffer. -/
theorem writeTarget_wf {s : State} {t : Target} {capacity : Nat} (w : Word) (ha : s.abuf.wf capacity)
    (hb : s.bbuf.wf capacity) (ht : ∀ b i, t = .word b i → i + 4 ≤ capacity) :
    (writeTarget s t w).abuf.wf capacity ∧ (writeTarget s t w).bbuf.wf capacity := by
  cases t with
  | word b i =>
    have hi := ht b i rfl
    cases b with
    | abuf => exact ⟨memWrite_wf _ ha hi, hb⟩
    | bbuf => exact ⟨ha, memWrite_wf _ hb hi⟩
  | _ => exact ⟨ha, hb⟩

/-- The inputs still to come do not matter to an access. -/
theorem access_setInputs (s : State) (a : Access) (l : List Input) :
    access (setInputs l s) a = (setInputs l (access s a).1, (access s a).2) := by
  have h : admission (setInputs l s) a = admission s a := rfl
  unfold access
  rw [h]
  cases admission s a with
  | error e => rfl
  | ok t =>
    cases a.kind with
    | read => simp; cases t <;> rfl
    | write => simp; cases t <;> first | rfl | (rename_i b i; cases b <;> rfl)

/-- What no access changes: the operations of the platform and of the model's own bookkeeping. -/
theorem access_keeps (s : State) (a : Access) :
    (access s a).1.replies = s.replies ∧ (access s a).1.inputs = s.inputs ∧ (access s a).1.resets = s.resets ∧
      (access s a).1.resetHeld = s.resetHeld ∧ (access s a).1.bufBytes = s.bufBytes ∧ (access s a).1.key = s.key ∧
      (access s a).1.olen = s.olen := by
  unfold access
  split
  · simp
  · split
    · simp
    · rename_i t _ _ _
      cases t with
      | word b i => cases b <;> simp [writeTarget]
      | _ => simp [writeTarget]

/-- While busy an access changes DONEIE at most (20_memory.md R60). -/
theorem access_busy {s : State} (a : Access) (h : s.phase = .busy) :
    (access s a).1 = { s with doneie := (access s a).1.doneie } := by
  unfold access
  split
  · rfl
  · split
    · rfl
    · rename_i t ht _ hw
      obtain ⟨-, -, -, hb, -⟩ := admission_ok ht
      have := hb h
      rw [hw] at this
      rw [admittedBusy_write this]
      rfl

end Sys2Proof.Machine
end

