-- ==== Sys2Proof/Laws/PerInstr.lean ====
section
/-!
SUPPORT. Per instruction: the decoder reads the word of a well-formed command as that command (30_encoding.md R81, R84).
-/
namespace Sys2Proof.Laws.RoundTrip

def Statement (i : Instr) : Prop := i.wf = true → decodeWord (encode i) = i

theorem nop : Statement .nop := fun _ => by decide

theorem enc : Statement .enc := fun _ => by decide

theorem dec : Statement .dec := fun _ => by decide

theorem keyhex : Statement .keyhex := fun _ => by decide

theorem keyraw : Statement .keyraw := fun _ => by decide

theorem pad : Statement .pad := fun _ => by decide

theorem menc : Statement .menc := fun _ => by decide

theorem mdec : Statement .mdec := fun _ => by decide

theorem b2h : Statement .b2h := fun _ => by decide

theorem h2b : Statement .h2b := fun _ => by decide

theorem illegal (w : Word) : Statement (.illegal w) := fun h => by
  have h : 9#32 < w := by simpa [Instr.wf, reservedWord] using h
  have ne : ∀ v : Word, v ≤ 9#32 → (w == v) = false := fun v hv => by
    simp only [beq_eq_false_iff_ne, ne_eq]
    rintro rfl
    exact absurd hv (BitVec.not_le.2 h)
  simp [encode, decodeWord, opcodeMap, List.lookup, ne]

end Sys2Proof.Laws.RoundTrip
end

