-- ==== Sys2Proof/Laws/Results.lean ====
section
/-!
SUPPORT. What each command with a length answers, by the conditions its rule checks (60_exceptions.md R187), and every byte of the
BBUF it leaves.
-/
namespace Sys2Proof.Machine

/-- Every byte of BBUF after a command that writes the bytes of `p` and leaves the others. -/
theorem readByte_output (s : State) (n a : Nat) {m : Memory} {p : Prop} [Decidable p] {v : Byte}
    (h : m.find a = if p then some v else s.bbuf.find a) :
    (completeOk (setOutput m n s)).readByte .bbuf a = if p then v else s.readByte .bbuf a := by
  rw [readByte_eq, readByte_eq]
  show (m.find a).getD _ = ite p v ((s.bbuf.find a).getD _)
  rw [h]
  split <;> rfl

/-- A length within BUF_BYTES is what OLEN then holds. -/
theorem olen_output {s : State} (m : Memory) {n : Nat} (h : n ≤ s.capacity) :
    (completeOk (setOutput m n s)).olen.toNat = n := by
  have := capacity_le s
  show (BitVec.ofNat 32 n).toNat = n
  rw [BitVec.toNat_ofNat, Nat.mod_eq_of_lt (by omega)]

/-! ### PAD -/

theorem exec_pad_ok {s : State} (h : s.mlen.toNat ≤ s.capacity) :
    exec .pad s = .next (completeOk (setOutput (padLoop (s.readByte .abuf) s.mlen.toNat s.bbuf) (ceil8 s.mlen.toNat) s)) := by
  simp only [exec, execPad, runPad, State.len, if_neg (Nat.not_lt.mpr h), finish_ok]

theorem exec_pad_over {s : State} (h : s.capacity < s.mlen.toNat) :
    exec .pad s = .next (recordError .allocationFailure s) := by
  simp only [exec, execPad, runPad, State.len, if_pos h, finish_error]

/-! ### MENC -/

/-- The BBUF MENC leaves. -/
def mencBuf (s : State) : Memory :=
  blockLoop (fun v0 v1 => teaEnc v0 v1 s.key) (padded (s.readByte .abuf) s.mlen.toNat) (ceil8 s.mlen.toNat / 8) s.bbuf

theorem exec_menc_ok {s : State} (h : s.mlen.toNat ≤ s.capacity) :
    exec .menc s = .next (completeOk (setOutput (mencBuf s) (ceil8 s.mlen.toNat) s)) := by
  simp only [exec, execMenc, runMenc, State.len, if_neg (Nat.not_lt.mpr h), finish_ok, mencBuf]

theorem exec_menc_over {s : State} (h : s.capacity < s.mlen.toNat) :
    exec .menc s = .next (recordError .allocationFailure s) := by
  simp only [exec, execMenc, runMenc, State.len, if_pos h, finish_error]

/-- Every byte of BBUF after MENC. -/
theorem readByte_menc (s : State) (a : Nat) :
    (completeOk (setOutput (mencBuf s) (ceil8 s.mlen.toNat) s)).readByte .bbuf a =
      if a < ceil8 s.mlen.toNat then blockByte (fun v0 v1 => teaEnc v0 v1 s.key) (padded (s.readByte .abuf) s.mlen.toNat) a
      else s.readByte .bbuf a := by
  have := ceil8_mod s.mlen.toNat
  unfold mencBuf
  rw [readByte_output s _ a (find_blockLoop _ _ _ _ a)]
  exact if_congr (by omega) rfl rfl

/-! ### MDEC -/

/-- The BBUF MDEC leaves. -/
def mdecBuf (s : State) : Memory :=
  blockLoop (fun v0 v1 => teaDec v0 v1 s.key) (s.readByte .abuf) (s.mlen.toNat / 8) s.bbuf

theorem exec_mdec_ok {s : State} (h : s.mlen.toNat ≤ s.capacity) (h8 : s.mlen.toNat % 8 = 0) :
    exec .mdec s = .next (completeOk (setOutput (mdecBuf s) s.mlen.toNat s)) := by
  simp only [exec, execMdec, runMdec, State.len, if_neg (Nat.not_lt.mpr h), if_neg (not_not.mpr h8), finish_ok, mdecBuf]

theorem exec_mdec_over {s : State} (h : s.capacity < s.mlen.toNat) :
    exec .mdec s = .next (recordError .allocationFailure s) := by
  simp only [exec, execMdec, runMdec, State.len, if_pos h, finish_error]

theorem exec_mdec_length {s : State} (h : s.mlen.toNat ≤ s.capacity) (h8 : s.mlen.toNat % 8 ≠ 0) :
    exec .mdec s = .next (recordError .invalidBlockLength s) := by
  simp only [exec, execMdec, runMdec, State.len, if_neg (Nat.not_lt.mpr h), if_pos h8, finish_error]

/-- Every byte of BBUF after MDEC. -/
theorem readByte_mdec {s : State} (h8 : s.mlen.toNat % 8 = 0) (a : Nat) :
    (completeOk (setOutput (mdecBuf s) s.mlen.toNat s)).readByte .bbuf a =
      if a < s.mlen.toNat then blockByte (fun v0 v1 => teaDec v0 v1 s.key) (s.readByte .abuf) a else s.readByte .bbuf a := by
  have : s.mlen.toNat % 8 = 0 := h8
  unfold mdecBuf
  rw [readByte_output s _ a (find_blockLoop _ _ _ _ a)]
  exact if_congr (by omega) rfl rfl

/-- Four bytes and four more that hold a block of `f` hold the block as two words. -/
theorem words_of_blockByte (f : Word → Word → Word × Word) (T B : Nat → Byte) (j : Nat)
    (h : ∀ k, k < 8 → B (8 * j + k) = blockByte f T (8 * j + k)) :
    (memRead4 B (8 * j), memRead4 B (8 * j + 4)) = f (memRead4 T (8 * j)) (memRead4 T (8 * j + 4)) := by
  refine Prod.ext (memRead4_of_bytes _ _ _ fun k hk => ?_) (memRead4_of_bytes _ _ _ fun k hk => ?_)
  · rw [h k (by omega), blockByte]
    simp only [show (8 * j + k) / 8 = j by omega, show (8 * j + k) % 8 = k by omega, if_pos hk]
  · rw [Nat.add_assoc, h _ (by omega), blockByte]
    simp only [show (8 * j + (4 + k)) / 8 = j by omega, show (8 * j + (4 + k)) % 8 = 4 + k by omega,
      if_neg (show ¬ 4 + k < 4 by omega), Nat.add_sub_cancel_left]

/-! ### KEYHEX -/

theorem exec_keyhex_ok {s : State} (h : s.mlen.toNat = 32) (hx : hexText (s.readByte .abuf) 32 = true) :
    exec .keyhex s = .next (completeOk (setKey (hexKey (s.readByte .abuf)) s)) := by
  simp only [exec, execKeyhex, runKeyhex, State.len, if_neg (not_not.mpr h), hx, Bool.true_eq_false, if_false, finish_ok]

theorem exec_keyhex_bad {s : State} (h : s.mlen.toNat ≠ 32 ∨ hexText (s.readByte .abuf) 32 = false) :
    exec .keyhex s = .next (recordError .invalidKeyFormat s) := by
  by_cases hl : s.mlen.toNat = 32
  · simp only [exec, execKeyhex, runKeyhex, State.len, if_neg (not_not.mpr hl), if_pos (h.resolve_left (not_not.mpr hl)), finish_error]
  · simp only [exec, execKeyhex, runKeyhex, State.len, if_pos hl, finish_error]

/-! ### B2H -/

theorem exec_b2h_ok {s : State} (h : s.mlen.toNat ≤ s.capacity) (hL : hexLen s.mlen.toNat ≤ s.capacity) :
    exec .b2h s = .next (completeOk (setOutput (b2hLoop (s.readByte .abuf) s.mlen.toNat s.bbuf) (hexLen s.mlen.toNat) s)) := by
  simp only [exec, execB2h, runB2h, State.len, if_neg (Nat.not_lt.mpr h), if_neg (Nat.not_lt.mpr hL), finish_ok]

theorem exec_b2h_over {s : State} (h : s.capacity < s.mlen.toNat ∨ s.capacity < hexLen s.mlen.toNat) :
    exec .b2h s = .next (recordError .allocationFailure s) := by
  by_cases hn : s.capacity < s.mlen.toNat
  · simp only [exec, execB2h, runB2h, State.len, if_pos hn, finish_error]
  · simp only [exec, execB2h, runB2h, State.len, if_neg hn, if_pos (h.resolve_left hn), finish_error]

/-! ### H2B -/

theorem exec_h2b_ok {s : State} (h : s.mlen.toNat ≤ s.capacity) (h2 : s.mlen.toNat % 2 = 0)
    (hx : hexText (s.readByte .abuf) s.mlen.toNat = true) :
    exec .h2b s = .next (completeOk (setOutput (h2bLoop (s.readByte .abuf) (s.mlen.toNat / 2) s.bbuf) (s.mlen.toNat / 2) s)) := by
  simp only [exec, execH2b, runH2b, State.len, if_neg (Nat.not_lt.mpr h), if_neg (not_not.mpr h2), hx, Bool.true_eq_false, if_false,
    finish_ok]

theorem exec_h2b_over {s : State} (h : s.capacity < s.mlen.toNat) :
    exec .h2b s = .next (recordError .allocationFailure s) := by
  simp only [exec, execH2b, runH2b, State.len, if_pos h, finish_error]

theorem exec_h2b_bad {s : State} (h : s.mlen.toNat ≤ s.capacity)
    (hx : s.mlen.toNat % 2 ≠ 0 ∨ hexText (s.readByte .abuf) s.mlen.toNat = false) :
    exec .h2b s = .next (recordError .invalidHexFormat s) := by
  by_cases h2 : s.mlen.toNat % 2 = 0
  · simp only [exec, execH2b, runH2b, State.len, if_neg (Nat.not_lt.mpr h), if_neg (not_not.mpr h2),
      if_pos (hx.resolve_left (not_not.mpr h2)), finish_error]
  · simp only [exec, execH2b, runH2b, State.len, if_neg (Nat.not_lt.mpr h), if_pos h2, finish_error]

/-- A text holds digits only exactly when each of its characters is one. -/
theorem hexText_iff (B : Nat → Byte) (n : Nat) : hexText B n = true ↔ ∀ i, i < n → (hexVal (B i)).isSome = true := by
  simp only [hexText, List.all_eq_true, List.mem_range]

/-- A text does not hold digits only exactly when one of its characters is none. -/
theorem hexText_false_iff (B : Nat → Byte) (n : Nat) : hexText B n = false ↔ ∃ i, i < n ∧ hexVal (B i) = none := by
  rw [← Bool.not_eq_true, hexText_iff]
  simp

end Sys2Proof.Machine
end

