-- ==== Sys2Proof/Laws/Step.lean ====
section
/-!
SUPPORT. Everything one step can do, said once: an inversion lemma for `step`, from which each claim over all steps is a case
analysis.
-/
namespace Sys2Proof.Machine

/-- What the sequencer's turn can do. -/
theorem sequencerTurn_cases {s t : State} (h : sequencerTurn s = .next t) :
    t = s ∧ (s.resetHeld = true ∨ s.phase = .idle) ∨
      s.resetHeld = false ∧ s.phase = .busy ∧ Effect s (decodeWord s.pend) t := by
  unfold sequencerTurn at h
  split at h
  · cases h
    exact .inl ⟨rfl, .inl ‹_›⟩
  · rename_i hr
    split at h
    · cases h
      exact .inl ⟨rfl, .inr ‹_›⟩
    · exact .inr ⟨by simpa using hr, ‹_›, exec_cases h⟩

/-- The inversion of `step`: which input moved, and what it did. -/
theorem step_cases {s t : State} (h : step s = .next t) :
    (∃ u, (u = s ∧ s.inputs = [] ∨ ∃ rest, u = setInputs rest s ∧ s.inputs = .sequencer :: rest) ∧
        (t = u ∧ (s.resetHeld = true ∨ s.phase = .idle) ∨
          s.resetHeld = false ∧ s.phase = .busy ∧ Effect u (decodeWord s.pend) t)) ∨
      (∃ a rest, s.inputs = .access a :: rest ∧ s.resetHeld = false ∧ t = hostStep a (setInputs rest s)) ∨
      (∃ rest, s.inputs = .resetAssert :: rest ∧ t = resetEvent (setInputs rest s)) ∨
      (∃ rest, s.inputs = .resetRelease :: rest ∧ t = releaseReset (setInputs rest s)) := by
  unfold step at h
  split at h
  · exact .inl ⟨s, .inl ⟨rfl, ‹_›⟩, sequencerTurn_cases h⟩
  · rename_i rest hin
    refine .inl ⟨setInputs rest s, .inr ⟨rest, rfl, hin⟩, ?_⟩
    simpa using sequencerTurn_cases h
  · split at h
    · cases h
    · rename_i hr
      cases h
      exact .inr (.inl ⟨_, _, ‹_›, by simpa using hr, rfl⟩)
  · cases h
    exact .inr (.inr (.inl ⟨_, ‹_›, rfl⟩))
  · cases h
    exact .inr (.inr (.inr ⟨_, ‹_›, rfl⟩))

/-- The sequencer's turn while a command is in flight is the completion step of that command (30_encoding.md R86). -/
theorem sequencerTurn_busy {s : State} (hr : s.resetHeld = false) (hp : s.phase = .busy) :
    sequencerTurn s = exec (decodeWord s.pend) s := by
  unfold sequencerTurn
  rw [hr, hp]
  rfl

/-- A command gives the same state whatever inputs are still to come, but for those inputs. -/
theorem exec_setInputs {i : Instr} {s t : State} (l : List Input) (h : exec i s = .next t) :
    exec i (setInputs l s) = .next (setInputs l t) := by
  have := exec_withHost s.doneie l s.replies h
  have hk : t.doneie = s.doneie ∧ t.replies = s.replies := by
    cases exec_cases h <;> exact ⟨rfl, rfl⟩
  rw [← hk.1, ← hk.2] at this
  rwa [show withHost t.doneie l t.replies s = setInputs l s by rw [hk.1, hk.2]; rfl] at this

/-- The sequencer's turn always answers a next state. -/
theorem sequencerTurn_next (s : State) : ∃ t, sequencerTurn s = .next t := by
  unfold sequencerTurn
  split
  · exact ⟨_, rfl⟩
  · split
    · exact ⟨_, rfl⟩
    · obtain ⟨t, ht, -⟩ := exec_effect (decodeWord s.pend) s
      exact ⟨t, ht⟩

end Sys2Proof.Machine
end

