-- ==== Sys2Proof/Laws/Run.lean ====
section
/-!
SUPPORT. Runs of several steps: `stepN` is the host's own run of the machine, and runs compose.
-/
namespace Sys2Proof.Machine

/-- `stepN` is the host's `Core.run` on this machine. -/
theorem stepN_eq_run (n : Nat) (s : State) : stepN n s = Sys2Proof.core.run n s := by
  induction n generalizing s with
  | zero => rfl
  | succ n ih =>
    cases h : step s with
    | next t => simpa only [stepN, h, Host.Core.run, show Sys2Proof.core.step s = .next t from h] using ih t
    | fault r => simp only [stepN, h, Host.Core.run, show Sys2Proof.core.step s = .fault r from h]; rfl
    | refused r => simp only [stepN, h, Host.Core.run, show Sys2Proof.core.step s = .refused r from h]; rfl

@[simp] theorem stepN_zero (s : State) : stepN 0 s = .next s := rfl

theorem stepN_succ {n : Nat} {s t : State} (h : step s = .next t) : stepN (n + 1) s = stepN n t := by
  simp [stepN, h]

theorem stepN_add {j k : Nat} {s t : State} (h : stepN j s = .next t) : stepN (j + k) s = stepN k t := by
  induction j generalizing s with
  | zero => cases h; simp
  | succ j ih =>
    rw [show j + 1 + k = j + k + 1 by omega]
    simp only [stepN] at h ⊢
    cases hs : step s with
    | next u => rw [hs] at h; exact ih h
    | fault r => rw [hs] at h; cases h
    | refused r => rw [hs] at h; cases h

end Sys2Proof.Machine
end

