-- ==== Sys2Proof/Tests/Slice0.lean ====
section
/-!
SUPPORT. The model's own tests. Expected values come from 95_test_vectors.md (the vector is named in the docstring) or are written
out by hand from the rule named. The witnesses at the end show states and operands that meet the hypotheses of the statements.
-/
namespace Sys2Proof.Tests
open Sys2Proof.Machine

/-! ### Helpers -/

/-- A field of the next state, if there is one. -/
def result {α : Type} (f : State → α) : Host.Outcome State Fault Refusal → Option α
  | .next t => some (f t)
  | .fault _ => none
  | .refused _ => none

/-- The characters of a string as bytes (00_scope.md R12). -/
def ascii (text : String) : List Byte := text.toList.map (fun c => BitVec.ofNat 8 c.toNat)

/-- The state after reset with `bytes` written from ABUF[0] on, MLEN and KEY. -/
def ready (bytes : List Byte) (mlen : Nat) (key : Key := ⟨0, 0, 0, 0⟩) : State :=
  { State.reset with
    abuf := (List.range bytes.length).map (fun i => (i, bytes.getD i 0))
    mlen := BitVec.ofNat 32 mlen
    key := key }

/-- The G1 key: KEYRAW of "0123456789ABCDEF" (95_test_vectors.md section 1.1). -/
def g1Key : Key := ⟨0x33323130, 0x37363534, 0x42413938, 0x46454443⟩

/-- STATUS, OLEN and the first `n` bytes of BBUF. -/
def output (n : Nat) (t : State) : Word × Nat × List Byte :=
  (t.statusWord, t.olen.toNat, (List.range n).map (t.readByte .bbuf))

/-- A text whose bytes are hexadecimal pairs. -/
def filler : List Byte := List.replicate 8 0xEE

/-! ### Well-formedness: the check refuses an ILLEGAL that carries the word of a defined command -/

theorem test_wf_refuses_illegal_of_nop_word : (Instr.illegal 0x00000000).wf = false := by decide
theorem test_wf_refuses_illegal_of_h2b_word : (Instr.illegal 0x00000009).wf = false := by decide
theorem test_wf_accepts_the_first_and_last_reserved_words :
    (Instr.illegal 0x0000000A).wf = true ∧ (Instr.illegal 0xFFFFFFFF).wf = true := by decide

/-! ### Decoding: words written out from 30_encoding.md R80 and R81, OP in bits 3:0 and bits 31:4 zero -/

theorem test_decode_nop : decode [0b00000000, 0, 0, 0] = .ok (.nop, []) := by decide
theorem test_decode_enc : decode [0b00000001, 0, 0, 0] = .ok (.enc, []) := by decide
theorem test_decode_dec : decode [0b00000010, 0, 0, 0] = .ok (.dec, []) := by decide
theorem test_decode_keyhex : decode [0b00000011, 0, 0, 0] = .ok (.keyhex, []) := by decide
theorem test_decode_keyraw : decode [0b00000100, 0, 0, 0] = .ok (.keyraw, []) := by decide
theorem test_decode_pad : decode [0b00000101, 0, 0, 0] = .ok (.pad, []) := by decide
theorem test_decode_menc : decode [0b00000110, 0, 0, 0] = .ok (.menc, []) := by decide
theorem test_decode_mdec : decode [0b00000111, 0, 0, 0] = .ok (.mdec, []) := by decide
theorem test_decode_b2h : decode [0b00001000, 0, 0, 0] = .ok (.b2h, []) := by decide
theorem test_decode_h2b : decode [0b00001001, 0, 0, 0] = .ok (.h2b, []) := by decide
/-- R83: OP 0xA to 0xF are reserved, and so is every word with a bit of 31:4 set. -/
theorem test_decode_illegal :
    decode [0b00001010, 0, 0, 0] = .ok (.illegal 0x0000000A, []) ∧
      decode [0b00000001, 0, 0, 0b10000000] = .ok (.illegal 0x80000001, []) ∧
      decode [0b00010001, 0, 0, 0] = .ok (.illegal 0x00000011, []) := by decide
theorem test_decode_three_bytes : decode [0x01, 0x00, 0x00] = .error .truncated := by decide
theorem test_decodeTableWord :
    decodeTableWord 32 0x6 = some .menc ∧ decodeTableWord 32 0x10 = some (.illegal 0x10) ∧ decodeTableWord 0 0 = none := by
  decide
theorem test_opcode_table_has_forty_rows : opcodeTable.length = 40 := by decide

/-! ### Commands -/

/-- C1 -/
theorem test_nop : result State.statusWord (exec .nop State.reset) = some 0x00000002 := by decide
/-- B1 -/
theorem test_enc_zero :
    result (fun t => (t.v0, t.v1)) (exec .enc State.reset) = some (0x41EA3A0A, 0x94BAA940) := by decide
/-- G1, B8: the key words are all different, so a swapped key slot shows. -/
theorem test_enc_g1 :
    result (fun t => (t.v0, t.v1)) (exec .enc { ready [] 0 g1Key with v0 := 0x4C4C4548, v1 := 0x0000004F }) =
      some (0x841C699C, 0xB7F85A62) := by decide
set_option maxRecDepth 4000 in
/-- B3: every key slot differs and the block is zero. -/
theorem test_dec_key_slots :
    result (fun t => (t.v0, t.v1)) (exec .dec (ready [] 0 ⟨0x01234567, 0x89ABCDEF, 0xFEDCBA98, 0x76543210⟩)) =
      some (0x076389C3, 0x2480DA73) := by decide
set_option maxRecDepth 4000 in
/-- B7: the top bit of V0. -/
theorem test_dec_top_bit :
    result (fun t => (t.v0, t.v1)) (exec .dec { State.reset with v0 := 0x80000000 }) =
      some (0x5BB58A23, 0x24E8088F) := by decide
/-- K1: both cases of the letters, four different words. -/
theorem test_keyhex :
    result (fun t => (t.statusWord, t.key)) (exec .keyhex (ready (ascii "0123456789abcdefFEDCBA9876543210") 32)) =
      some (0x00000002, ⟨0x01234567, 0x89ABCDEF, 0xFEDCBA98, 0x76543210⟩) := by decide
/-- K9: 'g' is no digit; the key is kept. -/
theorem test_keyhex_bad_digit :
    result (fun t => (t.statusWord, t.key))
        (exec .keyhex (ready (ascii "0123456789abcdefg123456789abcdef") 32 g1Key)) =
      some (0x00000016, g1Key) := by decide
/-- KR1: little-endian, and MLEN is ignored. -/
theorem test_keyraw :
    result (fun t => (t.statusWord, t.key)) (exec .keyraw (ready (ascii "0123456789ABCDEF") 300)) =
      some (0x00000002, g1Key) := by decide
/-- P-3: one byte of padding, not the 0xEE that stands in ABUF. -/
theorem test_pad :
    result (output 8) (exec .pad (ready (ascii "ABCDEFG" ++ filler) 7)) =
      some (0x00000002, 8, [0x41, 0x42, 0x43, 0x44, 0x45, 0x46, 0x47, 0x00]) := by decide
/-- P-9: the largest MLEN. -/
theorem test_pad_over_capacity :
    result (output 0) (exec .pad (ready [] 0xFFFFFFFF)) = some (0x00000046, 0, []) := by decide
/-- M5, G2: two blocks. -/
theorem test_menc_two_blocks :
    result (output 16) (exec .menc (ready (ascii "HELLO WORLD" ++ filler) 11 g1Key)) =
      some (0x00000002, 16,
        [0x08, 0x08, 0xEB, 0x29, 0x6B, 0x8B, 0x7A, 0x4B, 0xFC, 0x2D, 0x02, 0x62, 0x9C, 0x4F, 0x1E, 0x82]) := by decide
/-- M9 -/
theorem test_menc_over_capacity : result (output 0) (exec .menc (ready [] 257)) = some (0x00000046, 0, []) := by decide
set_option maxRecDepth 4000 in
/-- M12 -/
theorem test_mdec :
    result (output 8) (exec .mdec (ready [0x08, 0x08, 0xEB, 0x29, 0x6B, 0x8B, 0x7A, 0x4B] 8 g1Key)) =
      some (0x00000002, 8, [0x48, 0x45, 0x4C, 0x4C, 0x4F, 0x20, 0x57, 0x4F]) := by decide
/-- M14, M16 and M17: the block length, and the capacity before it. -/
theorem test_mdec_errors :
    result State.statusWord (exec .mdec (ready [] 1)) = some 0x00000036 ∧
      result State.statusWord (exec .mdec (ready [] 257)) = some 0x00000046 ∧
      result State.statusWord (exec .mdec (ready [] 264)) = some 0x00000046 := by decide
/-- X3: the high nibble first, upper case, no space after the last byte. -/
theorem test_b2h :
    result (output 8) (exec .b2h (ready [0x00, 0xAB, 0x7F] 3)) =
      some (0x00000002, 8, [0x30, 0x30, 0x20, 0x41, 0x42, 0x20, 0x37, 0x46]) := by decide
/-- X6: 3 * 86 - 1 is 257. -/
theorem test_b2h_over_capacity : result State.statusWord (exec .b2h (ready [] 86)) = some 0x00000046 := by decide
/-- X9 -/
theorem test_h2b :
    result (output 3) (exec .h2b (ready (ascii "00ab7F") 6)) = some (0x00000002, 3, [0x00, 0xAB, 0x7F]) := by decide
/-- X11, X14 and X18: odd length, a space, and the capacity first. -/
theorem test_h2b_errors :
    result State.statusWord (exec .h2b (ready (ascii "00 AB") 5)) = some 0x00000026 ∧
      result State.statusWord (exec .h2b (ready (ascii "AB C") 4)) = some 0x00000026 ∧
      result State.statusWord (exec .h2b (ready [] 258)) = some 0x00000046 := by decide
/-- C5: no block is encrypted. -/
theorem test_illegal :
    result (fun t => (t.statusWord, t.v0, t.v1)) (exec (.illegal 0x80000001) State.reset) =
      some (0x00000056, 0, 0) := by decide

/-! ### Host port: 95_test_vectors.md section 2.6 -/

/-- A4 to A7, and A2, A3 -/
theorem test_access_errors :
    (access State.reset ⟨.read, 0x014, 4, 0⟩).2.resp = .error ∧
      (access State.reset ⟨.write, 0x020, 4, 0x12345678⟩).2.resp = .error ∧
      (access State.reset ⟨.read, 0x1100, 4, 0⟩).2.resp = .error ∧
      (access State.reset ⟨.read, 0x002, 4, 0⟩).2.resp = .error ∧
      (access State.reset ⟨.read, 0x004, 1, 0⟩).2.resp = .error := by decide
/-- A8: the last word of ABUF. -/
theorem test_access_last_word : (access State.reset ⟨.read, 0x10FC, 4, 0⟩).2.resp = .okay := by decide
/-- A9 and A10: DONE is cleared alone, then ERR and ECODE. -/
theorem test_access_clears_status :
    (access (State.reset.failedWith .invalidBlockLength) ⟨.write, 0x004, 4, 0x2⟩).1.statusWord = 0x00000034 ∧
      (access { State.reset with err := true, ecode := some .invalidBlockLength }
        ⟨.write, 0x004, 4, 0x4⟩).1.statusWord = 0x00000000 := by decide
/-- A15: no second command is issued. -/
theorem test_access_busy_cmd :
    (access (issue 0x4 State.reset) ⟨.write, 0x000, 4, 0x1⟩).2.resp = .error := by decide

/-! ### Steps -/

/-- The step from `withFetchWord` runs the command: B1. -/
theorem test_step_runs_the_fetch_word :
    result State.v0 (step (State.reset.withFetchWord 32 0x00000001)) = some 0x41EA3A0A := by decide
/-- Program 4, the first RUN: MDEC of 12 bytes, one poll that sees BUSY = 1 and one that sees the final STATUS. -/
theorem test_program4_first_run :
    result State.replies
        (stepN 5 { State.reset with inputs := Script.W 0x00C 12 :: Script.RUN .mdec 1 }) =
      some [⟨.okay, some 0x00000036⟩, ⟨.okay, some 0x00000001⟩, ⟨.okay, none⟩, ⟨.okay, none⟩] := by decide

/-! ### Witnesses: states and operands that meet the hypotheses of the statements -/

/-- A busy state: ENC issued after reset. -/
def busyEnc : State := issue 0x00000001 State.reset

/-- A state whose key and ABUF text are known. -/
def rawText : State := ready (ascii "0123456789ABCDEF") 16 g1Key

theorem witness_DecoderIsTheOpcodeMap : 0x9#32 < 0xA#32 ∧ 0x9#32 < 0xFFFFFFFF#32 := by decide

theorem witness_DecodeOfEncodeIsTheCommand :
    Instr.nop.wf = true ∧ Instr.enc.wf = true ∧ Instr.dec.wf = true ∧ Instr.keyhex.wf = true ∧ Instr.keyraw.wf = true ∧
      Instr.pad.wf = true ∧ Instr.menc.wf = true ∧ Instr.mdec.wf = true ∧ Instr.b2h.wf = true ∧ Instr.h2b.wf = true ∧
      (Instr.illegal 0x0000000A).wf = true ∧ (Instr.illegal 0xFFFFFFFF).wf = true := by decide

theorem witness_StepRunsTheCommandInPend :
    busyEnc.resetHeld = false ∧ busyEnc.phase = .busy ∧ Instr.enc.wf = true ∧
      decode (bytesOfWord busyEnc.pend) = .ok (.enc, []) ∧ busyEnc.inputs = [] ∧
      (setInputs [.sequencer] busyEnc).inputs = .sequencer :: [] := by decide

theorem witness_IdleSequencerKeepsAllState :
    State.reset.phase = .idle ∧ State.reset.inputs = [] ∧ (setInputs [.sequencer] State.reset).inputs = .sequencer :: [] ∧
      (resetEvent busyEnc).resetHeld = true ∧ (resetEvent busyEnc).inputs = [] := by decide

theorem witness_StepPerformsTheHostAccess :
    (setInputs [Script.R 0x004] State.reset).inputs = .access ⟨.read, 0x004, 4, 0⟩ :: [] ∧
      State.reset.resetHeld = false := by decide

theorem witness_IssueOfACommand : State.reset.phase = .idle ∧ busyEnc.phase = .busy := by decide

theorem witness_CommandErrorsAreAllOrNothing :
    result State.err (exec (.illegal 0xA) State.reset) = some true ∧ result State.err (exec .nop State.reset) = some false := by
  decide

/-- A block changes, a key changes, and an output length and a byte change. -/
theorem witness_CommandsChangeOnlyTheirResults :
    result State.v0 (exec .enc State.reset) = some 0x41EA3A0A ∧ State.reset.v0 = 0 ∧
      result State.key (exec .keyraw (ready (ascii "0123456789ABCDEF") 0)) = some g1Key ∧
      result State.olen (exec .pad (ready [0x41] 1)) = some 8 ∧ (ready [0x41] 1).olen = 0 := by decide

theorem witness_AccessesWhileBusyDoNotReachTheResult :
    let s := setInputs [Script.W 0x008 1, Script.W 0x030 7, .sequencer] busyEnc
    s.resetHeld = false ∧ s.phase = .busy ∧
      s.inputs = [⟨.write, 0x008, 4, 1⟩, ⟨.write, 0x030, 4, 7⟩].map Input.access ++ .sequencer :: [] := by decide

theorem witness_RunEndsWithTheCommandsResult :
    let s := setInputs (Script.RUN .keyhex 2) State.reset
    s.resetHeld = false ∧ s.phase = .idle ∧ Instr.keyhex.wf = true ∧ s.inputs = Script.RUN .keyhex 2 ++ [] := by decide

theorem witness_IssuedCommandsComplete :
    let s := setInputs [Script.R 0x004] busyEnc
    s.resetHeld = false ∧ s.phase = .busy ∧ Input.resetAssert ∉ s.inputs := by decide

theorem witness_EveryStepKeepsTheInvariant : State.reset.Inv ∧ step State.reset = .next State.reset :=
  ⟨by
    refine ⟨⟨?_, ?_⟩, ?_, ?_, ?_, ?_⟩ <;> decide, rfl⟩

/-- The key changes by a reset, and by KEYRAW both with no input left and with the sequencer's turn as next input; and the
statement's second part is about an idle state. -/
theorem witness_KeyIsSetByKeyCommandsAlone :
    result State.key (step (setInputs [.resetAssert] rawText)) = some ⟨0, 0, 0, 0⟩ ∧ rawText.key ≠ ⟨0, 0, 0, 0⟩ ∧
      (let s := issue 0x4 (ready (ascii "0123456789ABCDEF") 0)
       result State.key (step s) = some g1Key ∧ result State.key (step (setInputs [.sequencer] s)) = some g1Key ∧
         s.key ≠ g1Key) ∧
      State.reset.phase = .idle := by decide

theorem witness_BufBytesNeverChanges : step State.reset = .next State.reset := rfl

theorem witness_ResetInAnyState : (setInputs [.resetAssert] busyEnc).inputs = .resetAssert :: [] := by decide

theorem witness_NoAccessWhileResetIsHeld :
    (setInputs [Script.R 0x004] (resetEvent busyEnc)).resetHeld = true ∧
      (setInputs [Script.R 0x004] (resetEvent busyEnc)).inputs = .access ⟨.read, 0x004, 4, 0⟩ :: [] ∧
      (setInputs [.resetRelease] (resetEvent busyEnc)).inputs = .resetRelease :: [] := by decide

/-- The first and the last word of a buffer of 256 bytes, and an offset not written since reset. -/
theorem witness_IdleAdmissionTable :
    State.reset.phase = .idle ∧ 0 % 4 = 0 ∧ 0 + 4 ≤ State.reset.capacity ∧ 252 % 4 = 0 ∧ 252 + 4 ≤ State.reset.capacity ∧
      (State.reset.buf .abuf).find 255 = none := by decide

/-- An admitted register of the idle table, another size, and a window word. -/
theorem witness_BusyAdmitsThreeAccesses :
    busyEnc.phase = .busy ∧
      ∀ a : Access, a = ⟨.read, 0x030, 4, 0⟩ ∨ a = ⟨.read, 0x004, 2, 0⟩ ∨ a = ⟨.write, 0x004, 4, 6⟩ →
        ¬ (a.size = 4 ∧
          (a.kind = .read ∧ (a.offset = 0x004 ∨ a.offset = 0x008) ∨ a.kind = .write ∧ a.offset = 0x008)) := by
  refine ⟨rfl, fun a h => ?_⟩
  rcases h with rfl | rfl | rfl <;> decide

theorem witness_ErrorResponsesChangeNothing :
    (⟨.read, 0x004, 2, 0⟩ : Access).size ≠ 4 ∧ (⟨.read, 0x006, 4, 0⟩ : Access).offset % 4 ≠ 0 ∧
      (access State.reset ⟨.write, 0x010, 4, 5⟩).2.resp = .error := by decide

/-- The ends of the reserved ranges; two words that differ in reserved bits alone. -/
theorem witness_ReservedOffsetsAndBits :
    (∀ a : Access, a = ⟨.read, 0x014, 4, 0⟩ ∨ a = ⟨.read, 0x01F, 4, 0⟩ ∨ a = ⟨.read, 0x038, 4, 0⟩ ∨
        a = ⟨.read, 0xFFF, 4, 0⟩ ∨ a = ⟨.read, 0x3000, 4, 0⟩ →
      (0x014 ≤ a.offset ∧ a.offset ≤ 0x01F ∨ 0x038 ≤ a.offset ∧ a.offset ≤ 0x0FFF ∨ 0x3000 ≤ a.offset)) ∧
    (0xFFFFFFF9#32).getLsbD 1 = (0#32).getLsbD 1 ∧ (0xFFFFFFF9#32).getLsbD 2 = (0#32).getLsbD 2 ∧
    (0xFFFFFFFE#32).getLsbD 0 = (0#32).getLsbD 0 := by
  refine ⟨fun a h => ?_, by decide⟩
  rcases h with rfl | rfl | rfl | rfl | rfl <;> decide

/-- The last word inside a buffer of 256 bytes, the first one beyond it, and the last one of the window. -/
theorem witness_BufferWindowWords :
    State.reset.phase = .idle ∧ (252 % 4 = 0 ∧ 252 < 0x1000 ∧ 252 + 4 ≤ State.reset.capacity) ∧
      (256 % 4 = 0 ∧ 256 < 0x1000 ∧ State.reset.capacity < 256 + 4) ∧
      (4092 % 4 = 0 ∧ 4092 < 0x1000 ∧ State.reset.capacity < 4092 + 4) := by decide

theorem witness_HostReadsWhatItWrote :
    State.reset.phase = .idle ∧ (0x030 = 0x030 ∨ 0x1000 ≤ 0x030) ∧
      access State.reset ⟨.write, 0x030, 4, 7⟩ = ({ State.reset with v0 := 7 }, ⟨.okay, none⟩) ∧
      access State.reset ⟨.write, 0x00C, 4, 7⟩ = ({ State.reset with mlen := 7 }, ⟨.okay, none⟩) ∧
      (access State.reset ⟨.write, 0x10FC, 4, 7⟩).2 = ⟨.okay, none⟩ ∧
      (access State.reset ⟨.write, 0x2000, 4, 7⟩).2 = ⟨.okay, none⟩ := by decide

theorem witness_StatusFieldsAndClearing :
    State.reset.phase = .idle ∧ (0x6#32).getLsbD 2 = true ∧ (0x2#32).getLsbD 2 = false := by decide

/-- irq rises at a completion and at a write to INTEN. -/
theorem witness_IrqRisesOnlyOnCompletionOrEnable :
    ({ busyEnc with doneie := true }).irq = false ∧
      result State.irq (step { busyEnc with doneie := true }) = some true ∧
      State.reset.succeeded.irq = false ∧
      result State.irq (step (setInputs [Script.W 0x008 1] State.reset.succeeded)) = some true := by decide

theorem witness_IrqIsClearedOrDisabled :
    State.reset.phase = .idle ∧ (0x2#32).getLsbD 1 = true ∧ (0x6#32).getLsbD 1 = true ∧
      (setInputs [.resetAssert] busyEnc).inputs = .resetAssert :: [] ∧
      result State.done (step (setInputs [.resetAssert] busyEnc)) = some false := by decide

theorem witness_EncCommand :
    State.reset.key = ⟨0, 0, 0, 0⟩ ∧ State.reset.v0 = 0 ∧ State.reset.v1 = 0 := by decide

theorem witness_DecCommand :
    let s := { State.reset with v0 := 0x41EA3A0A, v1 := 0x94BAA940 }
    s.key = ⟨0, 0, 0, 0⟩ ∧ s.v0 = 0x41EA3A0A ∧ s.v1 = 0x94BAA940 := by decide

/-- Two different states with the same block and key. -/
theorem witness_BlockCommandsDependOnBlockAndKeyAlone :
    (ready [0x41] 1).v0 = State.reset.v0 ∧ (ready [0x41] 1).v1 = State.reset.v1 ∧
      (ready [0x41] 1).key = State.reset.key ∧ ready [0x41] 1 ≠ State.reset := by decide

theorem witness_ReservedWordsAreIllegal : 0x9#32 < 0xA#32 ∧ 0x9#32 < 0x11#32 := by decide

/-- The ends of the three ranges of digits, and the characters beside them. -/
theorem witness_HexDigitFunctions :
    hexVal 0x30 = some 0x0 ∧ hexVal 0x39 = some 0x9 ∧ hexVal 0x41 = some 0xA ∧ hexVal 0x46 = some 0xF ∧
      hexVal 0x61 = some 0xA ∧ hexVal 0x66 = some 0xF ∧ hexVal 0x2F = none ∧ hexVal 0x3A = none ∧ hexVal 0x40 = none ∧
      hexVal 0x47 = none ∧ hexVal 0x60 = none ∧ hexVal 0x67 = none ∧ hexChar 0x9 = 0x39 ∧ hexChar 0xA = 0x41 := by decide

/-- 32 digits; lengths 31 and 33; a character that is none. -/
theorem witness_KeyhexCommand :
    (let s := ready (List.replicate 32 0x30) 32
     s.mlen.toNat = 32 ∧ ∀ i, i < 32 → (hexVal (s.readByte .abuf i)).isSome = true) ∧
    (ready [] 31).mlen.toNat ≠ 32 ∧ (ready [] 33).mlen.toNat ≠ 32 ∧
    ((ready (List.replicate 31 0x30 ++ [0x20]) 32).mlen.toNat = 32 ∧
      hexVal ((ready (List.replicate 31 0x30 ++ [0x20]) 32).readByte .abuf 31) = none) := by decide

theorem witness_CeilEightIsTheLeastMultiple : 16 % 8 = 0 ∧ 9 ≤ 16 ∧ ceil8 9 = 16 ∧ ceil8 8 = 8 ∧ ceil8 0 = 0 := by decide

/-- PAD and MENC at the capacity and one above it; bytes of the message, of the padding and beyond. -/
theorem witness_PadCommand_MencCommand :
    ((ready [] 256).mlen.toNat ≤ (ready [] 256).capacity ∧ (ready [] 0).mlen.toNat ≤ (ready [] 0).capacity) ∧
      (ready [] 257).capacity < (ready [] 257).mlen.toNat ∧
      (let s := ready (ascii "HELLO WORLD") 11
       10 < s.mlen.toNat ∧ (s.mlen.toNat ≤ 11 ∧ 15 < ceil8 s.mlen.toNat) ∧ ceil8 s.mlen.toNat ≤ 16 ∧
         8 * 1 < ceil8 s.mlen.toNat) := by decide

/-- MDEC at the capacity, one above it, and with a length that is no multiple of 8. -/
theorem witness_MdecCommand :
    ((ready [] 256).mlen.toNat ≤ (ready [] 256).capacity ∧ (ready [] 256).mlen.toNat % 8 = 0) ∧
      (ready [] 257).capacity < (ready [] 257).mlen.toNat ∧
      ((ready [] 255).mlen.toNat ≤ (ready [] 255).capacity ∧ (ready [] 255).mlen.toNat % 8 ≠ 0) := by decide

/-- M7: two equal blocks. -/
theorem witness_EqualBlocksEncryptEqually :
    let s := ready (ascii "ABCDEFGHABCDEFGH") 16
    s.mlen.toNat ≤ s.capacity ∧ 8 * 0 < ceil8 s.mlen.toNat ∧ 8 * 1 < ceil8 s.mlen.toNat ∧
      ∀ k, k < 8 → paddedByte s (8 * 0 + k) = paddedByte s (8 * 1 + k) := by decide

/-- M4 and its output as the next input. -/
theorem witness_MessageRoundTrip :
    let s := ready (ascii "HELLO") 5 g1Key
    let u := ready [0x9C, 0x69, 0x1C, 0x84, 0x62, 0x5A, 0xF8, 0xB7] 8 g1Key
    s.mlen.toNat ≤ s.capacity ∧ u.bufBytes = s.bufBytes ∧ u.key = s.key ∧
      result State.olen (exec .menc s) = some u.mlen ∧
      result (fun t => (List.range 8).map (t.readByte .bbuf)) (exec .menc s) =
        some ((List.range 8).map (u.readByte .abuf)) := by decide

theorem witness_MessageCommandsLeaveTheBlockAlone :
    (Instr.pad = .pad ∨ Instr.pad = .menc) ∧ result State.err (exec .menc (ready [0x41] 1)) = some false := by decide

/-- Two memories that agree on the operand byte of PAD and differ above it; and a byte of BBUF that changes. -/
theorem witness_CommandsReadAndWriteOnlyTheirBytes :
    (∀ j, j < operandBytes .pad (ready [0x41] 1) →
      State.readByte { ready [0x41] 1 with abuf := [(0, 0x41), (1, 0xEE)] } .abuf j = (ready [0x41] 1).readByte .abuf j) ∧
    result (fun t => t.readByte .bbuf 0) (exec .pad { ready [0x41] 1 with bbuf := [(0, 0x55)] }) = some 0x41 ∧
    State.readByte { ready [0x41] 1 with bbuf := [(0, 0x55)] } .bbuf 0 = 0x55 := by decide

/-- B2H at the longest input that fits, one byte more, and beyond the buffer. -/
theorem witness_B2hCommand :
    3 * (ready [] 85).mlen.toNat - 1 ≤ (ready [] 85).capacity ∧
      3 * (ready [] 0).mlen.toNat - 1 ≤ (ready [] 0).capacity ∧
      (84 < (ready [] 85).mlen.toNat ∧ 83 + 1 < (ready [] 85).mlen.toNat) ∧
      (ready [] 86).capacity < 3 * (ready [] 86).mlen.toNat - 1 ∧
      (ready [] 257).capacity < (ready [] 257).mlen.toNat := by decide

/-- H2B with digits only, beyond the buffer, with an odd length, and with a space. -/
theorem witness_H2bCommand :
    (let s := ready (ascii "00ab7F") 6
     s.mlen.toNat ≤ s.capacity ∧ s.mlen.toNat % 2 = 0 ∧
       (∀ i, i < s.mlen.toNat → (hexVal (s.readByte .abuf i)).isSome = true) ∧ 2 < s.mlen.toNat / 2) ∧
      (ready [] 257).capacity < (ready [] 257).mlen.toNat ∧
      ((ready [] 255).mlen.toNat ≤ (ready [] 255).capacity ∧ (ready [] 255).mlen.toNat % 2 ≠ 0) ∧
      (let s := ready (ascii "AB C") 4
       s.mlen.toNat ≤ s.capacity ∧ s.mlen.toNat % 2 = 0 ∧ 2 < s.mlen.toNat ∧ hexVal (s.readByte .abuf 2) = none) := by
  decide

/-- X3 and its text without the spaces. -/
theorem witness_HexRoundTrip :
    let s := ready [0x00, 0xAB, 0x7F] 3
    let u := ready (ascii "00AB7F") 6
    3 * s.mlen.toNat - 1 ≤ s.capacity ∧ u.bufBytes = s.bufBytes ∧
      result (fun t => ((List.range t.olen.toNat).map (t.readByte .bbuf)).filter (fun c => c ≠ 0x20)) (exec .b2h s) =
        some (ascii "00AB7F") ∧
      u.mlen.toNat = (ascii "00AB7F").length ∧
      ∀ i, i < 6 → u.readByte .abuf i = (ascii "00AB7F").getD i 0 := by decide

/-- The clauses of KEYHEX and H2B; the others are `if`s. -/
theorem witness_ErrorChecksInOrder :
    (ready [] 300).mlen.toNat ≠ 32 ∧
      hexVal ((ready (List.replicate 32 0x20) 32).readByte .abuf 0) = none ∧
      (∀ i, i < 32 → hexVal ((ready (List.replicate 32 0x46) 32).readByte .abuf i) ≠ none) ∧
      (ready [] 257).capacity < (ready [] 257).mlen.toNat ∧
      ((ready [] 3).mlen.toNat ≤ (ready [] 3).capacity ∧ (ready [] 3).mlen.toNat % 2 = 1) ∧
      hexVal ((ready (ascii "0G") 2).readByte .abuf 1) = none ∧
      (∀ i, i < 2 → hexVal ((ready (ascii "ff") 2).readByte .abuf i) ≠ none) := by decide

end Sys2Proof.Tests
end

section
/-!
PROOFS. The primitives of 00_scope.md: MemRead and MemWrite as numbers and bytes (R10), the hex digit functions as numbers (R13),
ceil8 (R14), and the parameter BUF_BYTES, which no step changes (R6).
-/
namespace Sys2Proof.Machine

/-! ### MemRead as a number -/

/-- The number of two fields side by side: the right one is the less significant (00_scope.md R7). -/
theorem toNat_append_eq_add {n w : Nat} (x : BitVec n) (y : BitVec w) :
    (x ++ y).toNat = y.toNat + 2 ^ w * x.toNat := by
  rw [BitVec.toNat_append, ← Nat.shiftLeft_add_eq_or_of_lt y.isLt, Nat.shiftLeft_eq, Nat.mul_comm, Nat.add_comm]

/-- MemRead of four bytes as a number, the first byte the least significant (00_scope.md R10). -/
theorem memRead4_toNat (B : Nat → Byte) (i : Nat) :
    (memRead4 B i).toNat =
      (B i).toNat + 2 ^ 8 * (B (i + 1)).toNat + 2 ^ 16 * (B (i + 2)).toNat + 2 ^ 24 * (B (i + 3)).toNat := by
  unfold memRead4
  simp only [toNat_append_eq_add]
  omega

/-- MemRead of eight bytes as a number, the first word the less significant (00_scope.md R10). -/
theorem memRead8_toNat (B : Nat → Byte) (i : Nat) :
    (memRead8 B i).toNat = (memRead4 B i).toNat + 2 ^ 32 * (memRead4 B (i + 4)).toNat :=
  toNat_append_eq_add _ _

/-- Settles O29: the reads by the number of two fields side by side, the write by what MemWrite does to every byte. -/
theorem memReadAndMemWriteAreLittleEndian : Obligations.MemReadAndMemWriteAreLittleEndian :=
  ⟨fun B i => ⟨memRead4_toNat B i, memRead8_toNat B i⟩, fun m n i a v => find_memWrite n i a v m⟩

/-! ### BUF_BYTES -/

/-- No command changes BUF_BYTES, whatever its effect. -/
theorem Effect.bufBytes_eq {s t : State} {i : Instr} (h : Effect s i t) : t.bufBytes = s.bufBytes := by
  cases h <;> rfl

/-- No host access changes BUF_BYTES. -/
theorem hostStep_bufBytes (a : Access) (s : State) : (hostStep a s).bufBytes = s.bufBytes := by
  obtain ⟨-, -, -, -, hb, -, -⟩ := access_keeps s a
  exact hb

/-- Settles O20, by the cases of a step: the sequencer's turn, a host access, and the two edges of reset. -/
theorem bufBytesNeverChanges : Obligations.BufBytesNeverChanges := by
  intro s t h
  obtain ⟨u, hu, hturn⟩ | ⟨a, rest, -, -, rfl⟩ | ⟨rest, -, rfl⟩ | ⟨rest, -, rfl⟩ := step_cases h
  · have hus : u.bufBytes = s.bufBytes := by
      obtain ⟨rfl, -⟩ | ⟨rest, rfl, -⟩ := hu <;> rfl
    obtain ⟨rfl, -⟩ | ⟨-, -, heffect⟩ := hturn
    · exact hus
    · exact heffect.bufBytes_eq.trans hus
  · exact hostStep_bufBytes a (setInputs rest s)
  · rfl
  · rfl

/-! ### The hex digit functions -/

/-- HEXVAL as a number, range by range (00_scope.md R13). -/
theorem map_toNat_hexVal (c : Byte) :
    (hexVal c).map BitVec.toNat =
      if 0x30 ≤ c.toNat ∧ c.toNat ≤ 0x39 then some (c.toNat - 0x30)
      else if 0x41 ≤ c.toNat ∧ c.toNat ≤ 0x46 then some (c.toNat - 0x41 + 10)
      else if 0x61 ≤ c.toNat ∧ c.toNat ≤ 0x66 then some (c.toNat - 0x61 + 10)
      else none := by
  simp only [hexVal, BitVec.le_def, apply_ite (Option.map BitVec.toNat), Option.map_some, Option.map_none,
    BitVec.toNat_ofNat, Nat.reducePow, Nat.reduceMod]
  split_ifs
  · congr 1; bv_omega
  · congr 1; bv_omega
  · congr 1; bv_omega
  · rfl

/-- HEXCHAR of a digit up to 9 (00_scope.md R13). -/
theorem hexChar_toNat_of_le {d : Nibble} (h : d.toNat ≤ 9) : (hexChar d).toNat = 0x30 + d.toNat := by
  have hd : d ≤ 9#4 := h
  simp only [hexChar, if_pos hd]
  bv_omega

/-- HEXCHAR of a digit above 9, upper case (00_scope.md R13). -/
theorem hexChar_toNat_of_gt {d : Nibble} (h : 9 < d.toNat) : (hexChar d).toNat = 0x41 + (d.toNat - 10) := by
  have hd : ¬ d ≤ 9#4 := Nat.not_le.2 h
  simp only [hexChar, if_neg hd]
  bv_omega

/-- Settles O45: each clause picks its range in HEXVAL's table of numbers, or its half of HEXCHAR. -/
theorem hexDigitFunctions : Obligations.HexDigitFunctions := by
  refine ⟨fun c => ?_, fun d => ⟨hexChar_toNat_of_le, hexChar_toNat_of_gt⟩⟩
  rw [← Option.map_eq_none_iff (f := BitVec.toNat), map_toNat_hexVal]
  refine ⟨fun h => if_pos h, fun h => ?_, fun h => ?_, fun hdec hupper hlower => ?_⟩
  · rw [if_neg (by omega), if_pos h]
  · rw [if_neg (by omega), if_neg (by omega), if_pos h]
  · rw [if_neg hdec, if_neg hupper, if_neg hlower]

/-! ### ceil8 -/

/-- ceil8 is at most every multiple of 8 that is at least its argument (00_scope.md R14). -/
theorem ceil8_le_of_mod {n m : Nat} (hm : m % 8 = 0) (h : n ≤ m) : ceil8 n ≤ m := by
  unfold ceil8
  omega

/-- Settles O48, from the three facts about ceil8. -/
theorem ceilEightIsTheLeastMultiple : Obligations.CeilEightIsTheLeastMultiple :=
  fun n => ⟨ceil8_mod n, le_ceil8 n, fun _ => ceil8_le_of_mod⟩

end Sys2Proof.Machine
end

section
/-!
PROOFS. The state (10_state.md): the values after reset (R36), the fields of STATUS and its write-1-to-clear (R26, R189), what a
command can change (R21 to R24, R28 to R31), and the machine's invariant, which holds after reset and which every step keeps.
-/
namespace Sys2Proof.Machine

/-! ### The legal values of STATUS -/

theorem completeOk_statusLegal (s : State) : (completeOk s).statusLegal := by
  simp [State.statusLegal]

theorem recordError_statusLegal (c : CmdError) (s : State) : (recordError c s).statusLegal := by
  simp [State.statusLegal]

theorem issue_statusLegal (w : Word) (s : State) : (issue w s).statusLegal := by
  simp [State.statusLegal]

/-- Bit 1 of the word touches DONE alone, and bit 2 clears ERR and ECODE together (10_state.md R26). -/
theorem clearStatus_statusLegal {s : State} (w : Word) (h : s.statusLegal) : (clearStatus w s).statusLegal := by
  obtain ⟨hbusy, hcode⟩ := h
  refine ⟨fun hp => ?_, ?_⟩
  · obtain ⟨hdone, herr, hnone⟩ := hbusy hp
    simp [hdone, herr, hnone]
  · rw [clearStatus_err, clearStatus_ecode]
    cases w.getLsbD 2 with
    | false => simpa using hcode
    | true => simp

/-- An admitted WRITE leaves a legal STATUS: only CMD and STATUS reach its fields. -/
theorem writeTarget_statusLegal {s : State} (t : Target) (w : Word) (h : s.statusLegal) :
    (writeTarget s t w).statusLegal := by
  cases t with
  | cmd => exact issue_statusLegal w s
  | status => exact clearStatus_statusLegal w h
  | word b i => cases b <;> exact h
  | _ => exact h

/-! ### The invariant -/

/-- Reset gives a state that meets the invariant, whatever the state before it. -/
theorem resetEvent_inv (s : State) : (resetEvent s).Inv :=
  ⟨by simp [State.statusLegal], wf_nil _, wf_nil _, Nat.zero_le _, fun _ => rfl⟩

/-- The end of reset keeps the invariant. -/
theorem releaseReset_inv {s : State} (h : s.Inv) : (releaseReset s).Inv := by
  obtain ⟨hlegal, habuf, hbbuf, holen, -⟩ := h
  exact ⟨hlegal, habuf, hbbuf, holen, nofun⟩

/-- The invariant says nothing about the inputs to come. -/
theorem setInputs_inv {s : State} (l : List Input) (h : s.Inv) : (setInputs l s).Inv := h

/-- The invariant says nothing about the replies given. -/
theorem giveReply_inv {s : State} (r : Reply) (h : s.Inv) : (giveReply r s).Inv := h

/-- The completion of a command keeps the invariant, whatever its effect: it leaves PHASE idle, and an output fits. -/
theorem Effect.preserves_inv {s t : State} {i : Instr} (he : Effect s i t) (h : s.Inv) : t.Inv := by
  obtain ⟨-, habuf, hbbuf, holen, -⟩ := h
  cases he with
  | failed c => exact ⟨recordError_statusLegal c s, habuf, hbbuf, holen, fun _ => rfl⟩
  | output _ m n hn hm _ =>
    exact ⟨completeOk_statusLegal _, habuf, hm hbbuf, (olen_output m hn).trans_le hn, fun _ => rfl⟩
  | _ => exact ⟨completeOk_statusLegal _, habuf, hbbuf, holen, fun _ => rfl⟩

/-- An access while reset is not held keeps the invariant: a buffer word that is written lies inside the buffer. -/
theorem AccessEffect.preserves_inv {s : State} {a : Access} {r : State × Reply} (he : AccessEffect s a r) (h : s.Inv)
    (hheld : s.resetHeld = false) : r.1.Inv := by
  cases he with
  | error e _ => exact h
  | read t _ _ => exact h
  | write t hok hwrite =>
    obtain ⟨hlegal, habuf, hbbuf, hlen, -⟩ := h
    obtain ⟨-, -, htarget, -, -⟩ := admission_ok hok
    obtain ⟨-, -, -, hheld', hbytes, -, holen⟩ := access_write hok hwrite ▸ access_keeps s a
    have hcap : (writeTarget s t a.wdata).capacity = s.capacity := congrArg Subtype.val hbytes
    obtain ⟨habuf', hbbuf'⟩ := writeTarget_wf a.wdata habuf hbbuf fun b i e =>
      target_word (htarget.trans (congrArg some e))
    refine ⟨writeTarget_statusLegal t a.wdata hlegal, hcap ▸ habuf', hcap ▸ hbbuf', ?_, fun hh => ?_⟩
    · rw [holen, hcap]
      exact hlen
    · rw [hheld', hheld] at hh
      cases hh

/-- A host access while reset is not held keeps the invariant. -/
theorem hostStep_inv {s : State} (a : Access) (h : s.Inv) (hheld : s.resetHeld = false) : (hostStep a s).Inv :=
  giveReply_inv _ ((access_effect s a).preserves_inv h hheld)

/-- Settles O17: nothing of a buffer is listed, and every field of STATUS is 0. -/
theorem invariantHoldsAtReset : Obligations.InvariantHoldsAtReset :=
  ⟨⟨nofun, by decide⟩, wf_nil _, wf_nil _, Nat.zero_le _, nofun⟩

/-- Settles O18, by the cases of a step: the sequencer's turn, a host access, and the two edges of reset. -/
theorem everyStepKeepsTheInvariant : Obligations.EveryStepKeepsTheInvariant := by
  intro s t hinv h
  obtain ⟨u, hu, hturn⟩ | ⟨a, rest, -, hheld, rfl⟩ | ⟨rest, -, rfl⟩ | ⟨rest, -, rfl⟩ := step_cases h
  · have huinv : u.Inv := by
      obtain ⟨rfl, -⟩ | ⟨rest, rfl, -⟩ := hu
      · exact hinv
      · exact setInputs_inv rest hinv
    obtain ⟨rfl, -⟩ | ⟨-, -, heffect⟩ := hturn
    · exact huinv
    · exact heffect.preserves_inv huinv
  · exact hostStep_inv a (setInputs_inv rest hinv) hheld
  · exact resetEvent_inv _
  · exact releaseReset_inv (setInputs_inv rest hinv)

/-! ### The frame of the commands -/

/-- What no command changes, whatever its effect (10_state.md R23, R28, R29, R31). -/
theorem Effect.frame {s t : State} {i : Instr} (he : Effect s i t) :
    t.doneie = s.doneie ∧ t.mlen = s.mlen ∧ t.abuf = s.abuf ∧ t.pend = s.pend ∧ t.resetHeld = s.resetHeld ∧
      t.bufBytes = s.bufBytes ∧ t.resets = s.resets ∧ t.inputs = s.inputs ∧ t.replies = s.replies := by
  cases he <;> exact ⟨rfl, rfl, rfl, rfl, rfl, rfl, rfl, rfl, rfl⟩

/-- V0 and V1 are kept by every command but ENC and DEC (10_state.md R22). -/
theorem Effect.block_eq {s t : State} {i : Instr} (he : Effect s i t) (hi : ¬ (i = .enc ∨ i = .dec)) :
    t.v0 = s.v0 ∧ t.v1 = s.v1 := by
  cases he with
  | block h _ => exact absurd h hi
  | _ => exact ⟨rfl, rfl⟩

/-- The key is kept by every command but KEYHEX and KEYRAW (10_state.md R21). -/
theorem Effect.key_eq {s t : State} {i : Instr} (he : Effect s i t) (hi : ¬ (i = .keyhex ∨ i = .keyraw)) :
    t.key = s.key := by
  cases he with
  | key h _ => exact absurd h hi
  | _ => rfl

/-- OLEN and BBUF are kept by every command but a buffer-producing one that succeeds (10_state.md R24, R30). -/
theorem Effect.output_eq {s t : State} {i : Instr} (he : Effect s i t)
    (hi : ¬ ((i = .pad ∨ i = .menc ∨ i = .mdec ∨ i = .b2h ∨ i = .h2b) ∧ t.err = false)) :
    t.olen = s.olen ∧ t.bbuf = s.bbuf := by
  cases he with
  | output h _ _ _ _ _ => exact absurd ⟨h, rfl⟩ hi
  | _ => exact ⟨rfl, rfl⟩

/-- Settles O12, from what each kind of effect leaves alone. -/
theorem commandsChangeOnlyTheirResults : Obligations.CommandsChangeOnlyTheirResults := by
  intro i s t h
  have he := exec_cases h
  obtain ⟨-, -, habuf, -, -, -, hresets, -, -⟩ := he.frame
  refine ⟨he.frame, fun a => readByte_congr hresets (congrArg (Memory.find · a) habuf), fun hne => ?_, fun hne => ?_,
    fun hne => ?_⟩
  · by_contra hi
    obtain ⟨hv0, hv1⟩ := he.block_eq hi
    exact hne.elim (· hv0) (· hv1)
  · by_contra hi
    exact hne (he.key_eq hi)
  · by_contra hi
    obtain ⟨holen, hbbuf⟩ := he.output_eq hi
    obtain hne | ⟨a, hne⟩ := hne
    · exact hne holen
    · exact hne (readByte_congr hresets (congrArg (Memory.find · a) hbbuf))

/-! ### The fields of STATUS -/

/-- STATUS as a number, field by field (10_state.md R26). -/
theorem statusWord_toNat (s : State) :
    s.statusWord.toNat =
      s.busy.toNat + 2 * s.done.toNat + 4 * s.err.toNat + 16 * (ecodeField s.ecode).toNat := by
  simp only [State.statusWord, toNat_append_eq_add, BitVec.toNat_ofBool, BitVec.toNat_ofNat]
  omega

/-- BUSY as a number is 1 exactly while PHASE is busy (10_state.md R31). -/
theorem busy_toNat (s : State) : s.busy.toNat = if s.phase = .busy then 1 else 0 := by
  cases h : s.phase <;> simp [State.busy, h]

/-- A flag in the place of value `n`. -/
theorem mul_toNat_eq_ite (n : Nat) (b : Bool) : n * b.toNat = if b then n else 0 := by
  cases b <;> simp

/-- A WRITE to STATUS while idle is answered OKAY and clears the fields its word names (20_memory.md R59). -/
theorem access_write_status {s : State} (w : Word) (h : s.phase = .idle) :
    access s ⟨.write, 0x004, 4, w⟩ = (clearStatus w s, ⟨.okay, none⟩) :=
  access_write (t := .status) (admission_eq_ok rfl (Nat.mod_self 4) (target_status _) (by rw [h]; nofun) (fun _ => rfl)) rfl

/-- Settles O31: the number of STATUS one field at a time, and the WRITE as `clearStatus`. -/
theorem statusFieldsAndClearing : Obligations.StatusFieldsAndClearing := by
  refine ⟨fun s => ?_, fun s w h => ⟨clearStatus w s, access_write_status w h, rfl, ?_, ?_, ?_⟩⟩
  · rw [statusWord_toNat, busy_toNat, mul_toNat_eq_ite, mul_toNat_eq_ite]
    congr 2
    cases s.ecode with
    | none => rfl
    | some c => cases c <;> rfl
  · rw [clearStatus_done]
    cases w.getLsbD 1 <;> simp
  · intro h2
    rw [clearStatus_err, clearStatus_ecode, h2]
    simp
  · intro h2
    rw [clearStatus_err, clearStatus_ecode, h2]
    simp

/-! ### The values after reset -/

/-- Every byte of a buffer that nothing has been written to since reset is a draw (70_reset_and_hazards.md R211). -/
theorem readByte_of_buf_nil {s : State} {b : Buf} (h : s.buf b = []) (i : Nat) :
    s.readByte b i = Config.drawByte s.resets b i := by
  rw [readByte_eq, h, find_nil]
  rfl

/-- Settles O21: each register holds its literal value, and both buffers are empty lists. -/
theorem resetStateValues : Obligations.ResetStateValues := by
  refine ⟨rfl, rfl, rfl, rfl, rfl, rfl, rfl, rfl, fun b i => readByte_of_buf_nil ?_ i, rfl⟩
  cases b <;> rfl

end Sys2Proof.Machine
end

section
/-!
PROOFS. The memory (20_memory.md): the address map (R51), which accesses get ERROR (R53 to R56, R58), the admission tables while
idle and while busy (R59, R60), the host's access as a step (R50), and the independence of a command in flight from the host's
accesses (R60, R64, R67).
-/
namespace Sys2Proof.Machine

/-! ### The address map -/

/-- What an offset can reach (20_memory.md R51, R56): a register of the map, or a word inside a buffer. -/
theorem target_cases {capacity offset : Nat} {t : Target} (h : target capacity offset = some t) :
    (offset, t) ∈ registerMap ∨ ∃ b i, t = .word b i ∧ offset = windowOf b + i ∧ i + 4 ≤ capacity := by
  unfold target abufBase bbufBase windowSize at h
  split at h
  · obtain ⟨l₁, l₂, hmap, -⟩ := List.lookup_eq_some_iff.1 h
    exact .inl (by simp [hmap])
  · split at h
    · obtain ⟨hi, e⟩ := Option.ite_none_right_eq_some.1 h
      exact .inr ⟨.abuf, _, (Option.some.inj e).symm, by simp only [windowOf]; omega, hi⟩
    · split at h
      · obtain ⟨hi, e⟩ := Option.ite_none_right_eq_some.1 h
        exact .inr ⟨.bbuf, _, (Option.some.inj e).symm, by simp only [windowOf]; omega, hi⟩
      · cases h

/-- An aligned offset of a window reaches the word there exactly when it lies inside the buffer (20_memory.md R56). -/
theorem target_window {capacity i : Nat} (b : Buf) (hi : i < 0x1000) :
    target capacity (windowOf b + i) = if i + 4 ≤ capacity then some (.word b i) else none := by
  cases b with
  | abuf => exact target_abuf hi
  | bbuf => exact target_bbuf hi

/-- STATUS is at offset 0x004 alone. -/
theorem offset_of_target_status {capacity offset : Nat} (h : target capacity offset = some .status) :
    offset = 0x004 := by
  simpa [registerMap] using target_cases h

/-- INTEN is at offset 0x008 alone. -/
theorem offset_of_target_inten {capacity offset : Nat} (h : target capacity offset = some .inten) :
    offset = 0x008 := by
  simpa [registerMap] using target_cases h

/-- Where the registers lie (20_memory.md R51): the rest of the window below 0x1000 is reserved. -/
theorem registerMap_offset : ∀ p ∈ registerMap, p.1 ≤ 0x010 ∨ 0x020 ≤ p.1 ∧ p.1 ≤ 0x034 := by decide

/-- The reserved offsets reach nothing, whatever BUF_BYTES is (20_memory.md R55). -/
theorem target_ne_some_of_reserved {capacity offset : Nat} (hc : capacity ≤ 4096)
    (h : 0x014 ≤ offset ∧ offset ≤ 0x01F ∨ 0x038 ≤ offset ∧ offset ≤ 0x0FFF ∨ 0x3000 ≤ offset) (t : Target) :
    target capacity offset ≠ some t := by
  intro ht
  obtain hreg | ⟨b, i, -, hoff, hi⟩ := target_cases ht
  · have hoff := registerMap_offset _ hreg
    omega
  · cases b <;> simp only [windowOf] at hoff <;> omega

/-! ### Accesses answered ERROR -/

/-- An access that is not admitted gets ERROR and changes nothing (20_memory.md R58). -/
theorem erroneous_of_not_admitted {s : State} {a : Access} (h : ∀ t, admission s a ≠ .ok t) : erroneous s a := by
  cases hadm : admission s a with
  | ok t => exact absurd hadm (h t)
  | error e =>
    unfold erroneous
    rw [access_error hadm]
    exact ⟨rfl, errorReply_resp s a.kind⟩

/-- An access whose offset reaches nothing gets ERROR and changes nothing (20_memory.md R55, R56). -/
theorem erroneous_of_unmapped {s : State} {a : Access} (h : ∀ t, target s.capacity a.offset ≠ some t) :
    erroneous s a :=
  erroneous_of_not_admitted fun t hok => by
    obtain ⟨-, -, ht, -, -⟩ := admission_ok hok
    exact h t ht

/-- A WRITE of a target the host cannot write gets ERROR and changes nothing (20_memory.md R59). -/
theorem erroneous_of_readOnly {s : State} {a : Access} {t : Target} (hk : a.kind = .write)
    (ht : target s.capacity a.offset = some t) (hr : t.readOnly = true) : erroneous s a :=
  erroneous_of_not_admitted fun u hok => by
    obtain ⟨-, -, hu, -, hw⟩ := admission_ok hok
    obtain rfl : t = u := Option.some.inj (ht.symm.trans hu)
    rw [hw hk] at hr
    cases hr

/-- The three ways an access can end agree that an ERROR leaves the state as it was (20_memory.md R58). -/
theorem AccessEffect.unchanged_of_error {s : State} {a : Access} {r : State × Reply} (he : AccessEffect s a r)
    (herr : r.2.resp = .error) : r.1 = s := by
  cases he with
  | error e _ => rfl
  | read t _ _ => rfl
  | write t _ _ => cases herr

/-- Settles O26: an admitted access has size 4 and an aligned offset, and only an admitted WRITE, answered OKAY, changes state. -/
theorem errorResponsesChangeNothing : Obligations.ErrorResponsesChangeNothing := by
  refine fun s a => ⟨fun hsize => ?_, fun halign => ?_, fun herr => ?_⟩
  · refine erroneous_of_not_admitted fun t hok => ?_
    obtain ⟨hs, -⟩ := admission_ok hok
    exact hsize hs
  · refine erroneous_of_not_admitted fun t hok => ?_
    obtain ⟨-, ho, -⟩ := admission_ok hok
    exact halign ho
  · have hsame := (access_effect s a).unchanged_of_error herr
    exact ⟨hsame, congrArg State.irq hsame⟩

/-! ### Reserved offsets and bits -/

/-- STATUS has no bit above ECODE (10_state.md R26). -/
theorem statusWord_toNat_lt (s : State) : s.statusWord.toNat < 2 ^ 8 := by
  have hbusy := s.busy.toNat_lt
  have hdone := s.done.toNat_lt
  have herr := s.err.toNat_lt
  have hcode := (ecodeField s.ecode).isLt
  rw [statusWord_toNat]
  omega

/-- Bit 3 of STATUS lies between ERR and ECODE (10_state.md R26). -/
theorem statusWord_bit_three (s : State) : s.statusWord.getLsbD 3 = false := by
  simp only [State.statusWord, BitVec.getLsbD_append]
  simp

/-- Bit 0 of STATUS is BUSY (10_state.md R26). -/
theorem statusWord_bit_zero (s : State) : s.statusWord.getLsbD 0 = s.busy := by
  simp only [State.statusWord, BitVec.getLsbD_append]
  simp

/-- INTEN as a number is DONEIE (10_state.md R28). -/
theorem intenWord_toNat (s : State) : s.intenWord.toNat = s.doneie.toNat := by
  rw [State.intenWord, toNat_append_eq_add, BitVec.toNat_ofBool, BitVec.toNat_ofNat]
  simp

/-- The bits of a word at and above the size of its number are 0. -/
theorem getLsbD_eq_false_of_toNat_lt {n k j : Nat} {v : BitVec n} (h : v.toNat < 2 ^ k) (hj : k ≤ j) :
    v.getLsbD j = false :=
  Nat.testBit_lt_two_pow (h.trans_le (Nat.pow_le_pow_right Nat.two_pos hj))

/-- Admission does not look at the data, so two WRITEs whose data have the same effect there are the same access. -/
theorem access_write_congr {s : State} {offset : Nat} {v w : Word}
    (h : ∀ t, target s.capacity offset = some t → writeTarget s t v = writeTarget s t w) :
    access s ⟨.write, offset, 4, v⟩ = access s ⟨.write, offset, 4, w⟩ := by
  have hadm : admission s ⟨.write, offset, 4, v⟩ = admission s ⟨.write, offset, 4, w⟩ := rfl
  cases hw : admission s ⟨.write, offset, 4, w⟩ with
  | error e => rw [access_error hw, access_error (hadm.trans hw)]
  | ok t =>
    obtain ⟨-, -, ht, -, -⟩ := admission_ok hw
    rw [access_write hw rfl, access_write (hadm.trans hw) rfl, h t ht]

/-- A WRITE to STATUS uses bits 1 and 2 of its word alone (10_state.md R26). -/
theorem clearStatus_congr {v w : Word} (h1 : v.getLsbD 1 = w.getLsbD 1) (h2 : v.getLsbD 2 = w.getLsbD 2) (s : State) :
    clearStatus v s = clearStatus w s := by
  unfold clearStatus
  rw [h1, h2]

/-- A WRITE to INTEN uses bit 0 of its word alone (10_state.md R28). -/
theorem writeInten_congr {v w : Word} (h : v.getLsbD 0 = w.getLsbD 0) (s : State) : writeInten v s = writeInten w s := by
  unfold writeInten
  rw [h]

/-- Settles O27: the reserved offsets reach nothing, STATUS and INTEN are numbers below 2^8 and 2, and their WRITEs use the
defined bits alone. -/
theorem reservedOffsetsAndBits : Obligations.ReservedOffsetsAndBits := by
  refine ⟨fun s a h => erroneous_of_unmapped (target_ne_some_of_reserved (capacity_le s) h),
    fun s => ⟨statusWord_bit_three s, fun j => getLsbD_eq_false_of_toNat_lt (statusWord_toNat_lt s),
      fun j => getLsbD_eq_false_of_toNat_lt ?_⟩,
    fun s v w => ⟨fun h1 h2 => access_write_congr fun t ht => ?_, fun h0 => access_write_congr fun t ht => ?_⟩⟩
  · rw [intenWord_toNat]
    exact s.doneie.toNat_lt
  · obtain rfl : .status = t := Option.some.inj ht
    exact clearStatus_congr h1 h2 s
  · obtain rfl : .inten = t := Option.some.inj ht
    exact writeInten_congr h0 s

/-! ### The admission table while idle -/

/-- An aligned READ of a target is admitted in the phases that admit it, and changes nothing (20_memory.md R59, R60). -/
theorem access_read_aligned {s : State} {offset : Nat} {t : Target} (ht : target s.capacity offset = some t)
    (hb : s.phase = .busy → admittedBusy .read t = true) (w : Word) (ho : offset % 4 = 0 := by rfl) :
    access s ⟨.read, offset, 4, w⟩ = (s, ⟨.okay, some (readTarget s t)⟩) :=
  access_read (admission_eq_ok rfl ho ht hb nofun) rfl

/-- An aligned WRITE of a target the host can write is admitted in the phases that admit it, and has its target's effect
(20_memory.md R59, R60). -/
theorem access_write_aligned {s : State} {offset : Nat} {t : Target} (ht : target s.capacity offset = some t)
    (hb : s.phase = .busy → admittedBusy .write t = true) (w : Word) (hr : t.readOnly = false := by rfl)
    (ho : offset % 4 = 0 := by rfl) :
    access s ⟨.write, offset, 4, w⟩ = (writeTarget s t w, ⟨.okay, none⟩) :=
  access_write (admission_eq_ok rfl ho ht hb fun _ => hr) rfl

/-- While idle every aligned READ of a target is admitted (20_memory.md R59). -/
theorem access_read_idle {s : State} {offset : Nat} {t : Target} (h : s.phase = .idle)
    (ht : target s.capacity offset = some t) (w : Word) (ho : offset % 4 = 0 := by rfl) :
    access s ⟨.read, offset, 4, w⟩ = (s, ⟨.okay, some (readTarget s t)⟩) :=
  access_read_aligned ht (by rw [h]; nofun) w ho

/-- While idle every aligned WRITE of a target the host can write is admitted (20_memory.md R59). -/
theorem access_write_idle {s : State} {offset : Nat} {t : Target} (h : s.phase = .idle)
    (ht : target s.capacity offset = some t) (w : Word) (hr : t.readOnly = false := by rfl)
    (ho : offset % 4 = 0 := by rfl) :
    access s ⟨.write, offset, 4, w⟩ = (writeTarget s t w, ⟨.okay, none⟩) :=
  access_write_aligned ht (by rw [h]; nofun) w hr ho

/-- A word inside the buffer is reached at its offset in the window. -/
theorem target_word_inside {s : State} {i : Nat} (b : Buf) (h : i + 4 ≤ s.capacity) :
    target s.capacity (windowOf b + i) = some (.word b i) := by
  have := capacity_le s
  rw [target_window b (by omega), if_pos h]

/-- An offset of a window is aligned when its distance from the window's start is. -/
theorem windowOf_add_mod {i : Nat} (b : Buf) (h : i % 4 = 0) : (windowOf b + i) % 4 = 0 := by
  cases b <;> simp only [windowOf] <;> omega

/-- While idle a READ of an aligned word inside a buffer answers its four bytes (20_memory.md R59). -/
theorem access_read_window {s : State} {i : Nat} (h : s.phase = .idle) (b : Buf) (hmod : i % 4 = 0)
    (hi : i + 4 ≤ s.capacity) (w : Word) :
    access s ⟨.read, windowOf b + i, 4, w⟩ = (s, ⟨.okay, some (memRead4 (s.readByte b) i)⟩) :=
  access_read_idle h (target_word_inside b hi) w (windowOf_add_mod b hmod)

/-- While idle a WRITE of an aligned word inside a buffer writes its four bytes (20_memory.md R59). -/
theorem access_write_window {s : State} {i : Nat} (h : s.phase = .idle) (b : Buf) (hmod : i % 4 = 0)
    (hi : i + 4 ≤ s.capacity) (w : Word) :
    access s ⟨.write, windowOf b + i, 4, w⟩ = (setBuf b (memWrite 4 i w (s.buf b)) s, ⟨.okay, none⟩) :=
  access_write_idle h (target_word_inside b hi) w rfl (windowOf_add_mod b hmod)

/-- A byte not written since reset reads as its draw (70_reset_and_hazards.md R211). -/
theorem readByte_of_find_none {s : State} {b : Buf} {i : Nat} (h : (s.buf b).find i = none) :
    s.readByte b i = Config.drawByte s.resets b i := by
  rw [readByte_eq, h]
  rfl

/-- Settles O24: each row is the READ or the WRITE of its target, the address map giving the target by its offset. -/
theorem idleAdmissionTable : Obligations.IdleAdmissionTable := by
  refine fun s h => ⟨fun w => ?reads, fun w => ?writes, fun b i => readByte_of_find_none⟩
  case reads =>
    exact ⟨access_read_idle h (target_cmd _) w, access_read_idle h (target_status _) w,
      access_read_idle h (target_inten _) w, access_read_idle h (target_mlen _) w, access_read_idle h (target_olen _) w,
      access_read_idle h (target_key0 _) w, access_read_idle h (target_key1 _) w, access_read_idle h (target_key2 _) w,
      access_read_idle h (target_key3 _) w, access_read_idle h (target_v0 _) w, access_read_idle h (target_v1 _) w,
      fun b i hmod hi => access_read_window h b hmod hi w⟩
  case writes =>
    exact ⟨access_write_idle h (target_cmd _) w, access_write_idle h (target_status _) w,
      access_write_idle h (target_inten _) w, access_write_idle h (target_mlen _) w,
      erroneous_of_readOnly rfl (target_olen _) rfl, erroneous_of_readOnly rfl (target_key0 _) rfl,
      erroneous_of_readOnly rfl (target_key1 _) rfl, erroneous_of_readOnly rfl (target_key2 _) rfl,
      erroneous_of_readOnly rfl (target_key3 _) rfl, access_write_idle h (target_v0 _) w,
      access_write_idle h (target_v1 _) w,
      fun i hmod hi => ⟨access_write_window h .abuf hmod hi w, access_write_window h .bbuf hmod hi w⟩⟩

/-! ### The buffer windows -/

/-- The buffers after one of them is set. -/
theorem setBuf_buf (b c : Buf) (m : Memory) (s : State) : (setBuf b m s).buf c = if c = b then m else s.buf c := by
  cases b <;> cases c <;> rfl

/-- Setting a buffer is no reset. -/
theorem setBuf_resets (b : Buf) (m : Memory) (s : State) : (setBuf b m s).resets = s.resets := by
  cases b <;> rfl

/-- What the WRITE of a buffer word does to every byte of both buffers (20_memory.md R56). -/
theorem readByte_setBuf_memWrite (s : State) (b c : Buf) (i j : Nat) (w : Word) :
    (setBuf b (memWrite 4 i w (s.buf b)) s).readByte c j =
      if c = b ∧ i ≤ j ∧ j < i + 4 then byteOf w (j - i) else s.readByte c j := by
  rw [readByte_eq, readByte_eq, setBuf_buf, setBuf_resets]
  by_cases hcb : c = b
  · subst hcb
    rw [if_pos rfl, find_memWrite]
    simp only [true_and]
    split <;> rfl
  · rw [if_neg hcb, if_neg fun h => hcb h.1]

/-- The WRITE of a buffer changes the buffers alone. -/
theorem setBuf_eq_with_buffers (b : Buf) (m : Memory) (s : State) :
    setBuf b m s = { s with abuf := (setBuf b m s).abuf, bbuf := (setBuf b m s).bbuf } := by
  cases b <;> rfl

/-- Settles O28: inside the buffer the word's four bytes are read and written; beyond it the address map reaches nothing. -/
theorem bufferWindowWords : Obligations.BufferWindowWords := by
  refine fun s b i w h hmod hi => ⟨fun hin => ⟨?read, ?write⟩, fun hout => ?outside⟩
  case read => exact ⟨_, access_read_window h b hmod hin w, fun k hk => byteOf_memRead4 _ i k hk⟩
  case write =>
    refine ⟨_, access_write_window h b hmod hin w, fun k hk => ?_, fun c j hcj => ?_, setBuf_eq_with_buffers _ _ s⟩
    · rw [readByte_setBuf_memWrite, if_pos ⟨rfl, by omega, by omega⟩, Nat.add_sub_cancel_left]
      rfl
    · rw [readByte_setBuf_memWrite, if_neg hcj]
  case outside =>
    have hcap := capacity_mod s
    have hnone : ∀ t, target s.capacity (windowOf b + i) ≠ some t := by
      rw [target_window b hi, if_neg (by omega)]
      nofun
    exact ⟨by omega, erroneous_of_unmapped hnone, erroneous_of_unmapped hnone⟩

/-! ### The admission table while busy -/

/-- The three accesses that are admitted while busy (20_memory.md R60). -/
theorem admittedBusy_iff (k : AccessKind) (t : Target) :
    admittedBusy k t = true ↔ k = .read ∧ (t = .status ∨ t = .inten) ∨ k = .write ∧ t = .inten := by
  cases k <;> cases t <;> simp [admittedBusy]

/-- An access admitted while busy is one of the three, by its offset (20_memory.md R60). -/
theorem admitted_of_busy {s : State} {a : Access} {t : Target} (h : s.phase = .busy) (hok : admission s a = .ok t) :
    a.size = 4 ∧ (a.kind = .read ∧ (a.offset = 0x004 ∨ a.offset = 0x008) ∨ a.kind = .write ∧ a.offset = 0x008) := by
  obtain ⟨hsize, -, ht, hbusy, -⟩ := admission_ok hok
  refine ⟨hsize, ?_⟩
  obtain ⟨hk, rfl | rfl⟩ | ⟨hk, rfl⟩ := (admittedBusy_iff _ _).1 (hbusy h)
  · exact .inl ⟨hk, .inl (offset_of_target_status ht)⟩
  · exact .inl ⟨hk, .inr (offset_of_target_inten ht)⟩
  · exact .inr ⟨hk, offset_of_target_inten ht⟩

/-- Settles O25: the three accesses are admitted in every phase, and while busy no other one is. -/
theorem busyAdmitsThreeAccesses : Obligations.BusyAdmitsThreeAccesses := by
  refine fun s h => ⟨fun w => ⟨?_, ?_, ?_, ?_⟩, fun a hother =>
    erroneous_of_not_admitted fun t hok => hother (admitted_of_busy h hok)⟩
  · exact access_read_aligned (target_status _) (fun _ => rfl) w
  · rw [statusWord_bit_zero, State.busy, h]
    rfl
  · exact access_read_aligned (target_inten _) (fun _ => rfl) w
  · exact access_write_aligned (target_inten _) (fun _ => rfl) w

/-! ### The host's access as a step -/

/-- While reset is not held, a step whose next input is an access performs it (20_memory.md R50). -/
theorem step_access {s : State} {a : Access} {rest : List Input} (hin : s.inputs = .access a :: rest)
    (hheld : s.resetHeld = false) : step s = .next (hostStep a (setInputs rest s)) := by
  unfold step
  rw [hin, hheld]
  rfl

/-- What the host's access leaves, with the inputs that come after it. -/
theorem hostStep_setInputs (s : State) (a : Access) (rest : List Input) :
    hostStep a (setInputs rest s) = { (access s a).1 with inputs := rest, replies := (access s a).2 :: s.replies } := by
  obtain ⟨hreplies, -⟩ := access_keeps s a
  unfold hostStep
  rw [access_setInputs, ← hreplies]
  rfl

/-- Settles O9, from the step and what the access leaves. -/
theorem stepPerformsTheHostAccess : Obligations.StepPerformsTheHostAccess :=
  fun s a rest hin hheld => (step_access hin hheld).trans (congrArg _ (hostStep_setInputs s a rest))

/-! ### Accesses while a command is in flight -/

/-- While busy the host's access reaches the host's parts of the state alone: DONEIE, the inputs and the replies (20_memory.md
R60). -/
theorem hostStep_busy {s : State} (a : Access) (rest : List Input) (h : s.phase = .busy) :
    hostStep a (setInputs rest s) = withHost (access s a).1.doneie rest ((access s a).2 :: s.replies) s := by
  rw [hostStep_setInputs, access_busy a h]
  rfl

/-- Any number of accesses while busy reach the host's parts of the state alone. -/
theorem stepN_accesses_busy {s : State} (accesses : List Access) {rest : List Input} (hheld : s.resetHeld = false)
    (hbusy : s.phase = .busy) (hin : s.inputs = accesses.map Input.access ++ rest) :
    ∃ d r, stepN accesses.length s = .next (withHost d rest r s) := by
  induction accesses generalizing s with
  | nil => exact ⟨s.doneie, s.replies, congrArg _ (by rw [show rest = s.inputs from hin.symm]; rfl)⟩
  | cons a accesses ih =>
    have hstep := step_access hin hheld
    rw [hostStep_busy a _ hbusy] at hstep
    obtain ⟨d, r, hrun⟩ := 
      ih (s := withHost (access s a).1.doneie (accesses.map Input.access ++ rest) ((access s a).2 :: s.replies) s)
        hheld hbusy rfl
    exact ⟨d, r, (stepN_succ hstep).trans hrun⟩

/-- The step that takes the sequencer's turn while a command is in flight is the completion step of that command
(30_encoding.md R86). -/
theorem step_sequencer_busy {s : State} {rest : List Input} (hin : s.inputs = .sequencer :: rest)
    (hheld : s.resetHeld = false) (hbusy : s.phase = .busy) : step s = exec (decodeWord s.pend) (setInputs rest s) := by
  unfold step
  rw [hin]
  exact sequencerTurn_busy (s := setInputs rest s) hheld hbusy

/-- Settles O13: the accesses reach the host's parts of the state alone, and those the command neither reads nor writes. -/
theorem accessesWhileBusyDoNotReachTheResult : Obligations.AccessesWhileBusyDoNotReachTheResult := by
  intro s accesses rest hheld hbusy hin
  obtain ⟨d, r, hrun⟩ := stepN_accesses_busy accesses hheld hbusy hin
  obtain ⟨u, hu, -⟩ := exec_effect (decodeWord s.pend) s
  have hexec := exec_withHost d rest r hu
  have hturn : step (withHost d (.sequencer :: rest) r s) = .next (withHost d rest r u) :=
    (step_sequencer_busy (s := withHost d _ r s) rfl hheld hbusy).trans hexec
  exact ⟨_, u, (stepN_add hrun).trans (stepN_succ hturn), hu, rfl⟩

end Sys2Proof.Machine
end

section
/-!
PROOFS. The bytes of the buffers a command reads and writes (20_memory.md R63): each function of ABUF's bytes uses the operand bytes
alone, and what a command changes in BBUF lies below its OLEN.
-/
namespace Sys2Proof.Machine

/-! ### The bytes of BBUF a command writes -/

/-- A byte of BBUF that a command changes lies below the OLEN it leaves (20_memory.md R63). -/
theorem Effect.lt_olen_of_changed {s t : State} {i : Instr} (he : Effect s i t) {a : Nat}
    (hne : t.readByte .bbuf a ≠ s.readByte .bbuf a) : a < t.olen.toNat := by
  cases he with
  | output _ m n hn _ tail =>
    rw [olen_output m hn]
    by_contra hle
    exact hne (readByte_congr rfl (tail a (Nat.not_lt.1 hle)))
  | _ => exact absurd rfl hne

/-! ### The bytes each function of a source uses

On two sources that agree on those bytes it gives the same. -/

/-- Loops whose rounds agree give the same result. -/
theorem loop_congr {α : Type} {body body' : Nat → α → α} {n : Nat} (h : ∀ k x, k < n → body k x = body' k x) (a : α) :
    loop n body a = loop n body' a := by
  induction n with
  | zero => rfl
  | succ n ih => rw [loop_succ, loop_succ, ih fun k x hk => h k x (hk.trans n.lt_succ_self), h n _ n.lt_succ_self]

section
variable {B B' : Nat → Byte}

theorem memRead4_congr {i n : Nat} (h : ∀ j, j < n → B j = B' j) (hi : i + 4 ≤ n) : memRead4 B i = memRead4 B' i := by
  unfold memRead4
  rw [h i (by omega), h (i + 1) (by omega), h (i + 2) (by omega), h (i + 3) (by omega)]

theorem padded_congr {n : Nat} (h : ∀ j, j < n → B j = B' j) : padded B n = padded B' n := by
  funext i
  unfold padded
  split
  · exact h i ‹_›
  · rfl

theorem hexText_congr {n : Nat} (h : ∀ j, j < n → B j = B' j) : hexText B n = hexText B' n := by
  rw [Bool.eq_iff_iff, hexText_iff, hexText_iff]
  exact forall₂_congr fun i hi => by rw [h i hi]

theorem hexKey_congr (h : ∀ j, j < 32 → B j = B' j) : hexKey B = hexKey B' := by
  have word : ∀ j, j < 4 → hexWord B j = hexWord B' j := fun j hj =>
    loop_congr (fun k x hk => by rw [h (8 * j + k) (by omega)]) 0#32
  unfold hexKey
  rw [word 0 (by omega), word 1 (by omega), word 2 (by omega), word 3 (by omega)]

theorem rawKey_congr (h : ∀ j, j < 16 → B j = B' j) : rawKey B = rawKey B' := by
  unfold rawKey
  rw [memRead4_congr h (by omega), memRead4_congr h (by omega), memRead4_congr h (by omega), memRead4_congr h (by omega)]

theorem padLoop_congr {n : Nat} (h : ∀ j, j < n → B j = B' j) (m : Memory) : padLoop B n m = padLoop B' n m := by
  unfold padLoop
  rw [padded_congr h]

theorem blockLoop_congr (f : Word → Word → Word × Word) {blocks : Nat} (h : ∀ j, j < 8 * blocks → B j = B' j) (m : Memory) :
    blockLoop f B blocks m = blockLoop f B' blocks m :=
  loop_congr (fun k x hk => by rw [memRead4_congr h (by omega), memRead4_congr h (by omega)]) m

theorem b2hLoop_congr {n : Nat} (h : ∀ j, j < n → B j = B' j) (m : Memory) : b2hLoop B n m = b2hLoop B' n m :=
  loop_congr (fun k x hk => by unfold b2hByte; rw [h k hk]) m

theorem h2bLoop_congr {bytes : Nat} (h : ∀ j, j < 2 * bytes → B j = B' j) (m : Memory) :
    h2bLoop B bytes m = h2bLoop B' bytes m :=
  loop_congr (fun k x hk => by rw [h (2 * k) (by omega), h (2 * k + 1) (by omega)]) m

end

/-! ### The bytes of ABUF a command reads -/

/-- `i` gives from `s` the same next state when ABUF is `m` instead, but for ABUF. -/
def ignoresAbuf (i : Instr) (m : Memory) (s : State) : Prop :=
  ∃ t, exec i s = .next t ∧ exec i (setBuf .abuf m s) = .next (setBuf .abuf m t)

section
variable {i : Instr} {m : Memory} {s : State}

/-- An error is the same error from the other ABUF. -/
theorem ignoresAbuf_of_error (c : CmdError) (h : exec i s = .next (recordError c s))
    (h' : exec i (setBuf .abuf m s) = .next (recordError c (setBuf .abuf m s))) : ignoresAbuf i m s :=
  ⟨_, h, h'⟩

/-- A command that loads a key loads the same key from the other ABUF. -/
theorem ignoresAbuf_of_key {k k' : Key} (h : exec i s = .next (completeOk (setKey k s)))
    (h' : exec i (setBuf .abuf m s) = .next (completeOk (setKey k' (setBuf .abuf m s)))) (e : k' = k) : ignoresAbuf i m s :=
  ⟨_, h, h'.trans (by rw [e]; rfl)⟩

/-- A buffer-producing command leaves the same BBUF and OLEN from the other ABUF. -/
theorem ignoresAbuf_of_output {q q' : Memory} {n : Nat} (h : exec i s = .next (completeOk (setOutput q n s)))
    (h' : exec i (setBuf .abuf m s) = .next (completeOk (setOutput q' n (setBuf .abuf m s)))) (e : q' = q) :
    ignoresAbuf i m s :=
  ⟨_, h, h'.trans (by rw [e]; rfl)⟩

end

section
variable {m : Memory} {s : State}

/-- KEYHEX reads 32 bytes, and only where MLEN is 32 (42_key_schedule.md R121). -/
theorem keyhex_ignoresAbuf (h : ∀ j, j < min 32 s.mlen.toNat → (setBuf .abuf m s).readByte .abuf j = s.readByte .abuf j) :
    ignoresAbuf .keyhex m s := by
  by_cases hl : s.mlen.toNat = 32
  · rw [hl, Nat.min_self] at h
    cases hx : hexText (s.readByte .abuf) 32 with
    | true =>
      exact ignoresAbuf_of_key (exec_keyhex_ok hl hx) (exec_keyhex_ok hl ((hexText_congr h).trans hx)) (hexKey_congr h)
    | false =>
      exact ignoresAbuf_of_error _ (exec_keyhex_bad (.inr hx)) (exec_keyhex_bad (.inr ((hexText_congr h).trans hx)))
  · exact ignoresAbuf_of_error _ (exec_keyhex_bad (.inl hl)) (exec_keyhex_bad (.inl hl))

section
variable (h : ∀ j, j < s.mlen.toNat → (setBuf .abuf m s).readByte .abuf j = s.readByte .abuf j)
include h

theorem pad_ignoresAbuf : ignoresAbuf .pad m s := by
  obtain hfit | hover := le_or_gt s.mlen.toNat s.capacity
  · exact ignoresAbuf_of_output (exec_pad_ok hfit) (exec_pad_ok hfit) (padLoop_congr h _)
  · exact ignoresAbuf_of_error _ (exec_pad_over hover) (exec_pad_over hover)

theorem menc_ignoresAbuf : ignoresAbuf .menc m s := by
  obtain hfit | hover := le_or_gt s.mlen.toNat s.capacity
  · refine ignoresAbuf_of_output (exec_menc_ok hfit) (exec_menc_ok hfit) ?_
    exact congrArg (fun T => blockLoop _ T _ _) (padded_congr h)
  · exact ignoresAbuf_of_error _ (exec_menc_over hover) (exec_menc_over hover)

theorem mdec_ignoresAbuf : ignoresAbuf .mdec m s := by
  obtain hfit | hover := le_or_gt s.mlen.toNat s.capacity
  · by_cases h8 : s.mlen.toNat % 8 = 0
    · exact ignoresAbuf_of_output (exec_mdec_ok hfit h8) (exec_mdec_ok hfit h8)
        (blockLoop_congr _ (fun j hj => h j (hj.trans_le (Nat.mul_div_le _ 8))) _)
    · exact ignoresAbuf_of_error _ (exec_mdec_length hfit h8) (exec_mdec_length hfit h8)
  · exact ignoresAbuf_of_error _ (exec_mdec_over hover) (exec_mdec_over hover)

theorem b2h_ignoresAbuf : ignoresAbuf .b2h m s := by
  by_cases hover : s.capacity < s.mlen.toNat ∨ s.capacity < hexLen s.mlen.toNat
  · exact ignoresAbuf_of_error _ (exec_b2h_over hover) (exec_b2h_over hover)
  · obtain ⟨hfit, hlen⟩ := not_or.1 hover
    exact ignoresAbuf_of_output (exec_b2h_ok (Nat.not_lt.1 hfit) (Nat.not_lt.1 hlen))
      (exec_b2h_ok (Nat.not_lt.1 hfit) (Nat.not_lt.1 hlen)) (b2hLoop_congr h _)

theorem h2b_ignoresAbuf : ignoresAbuf .h2b m s := by
  obtain hfit | hover := le_or_gt s.mlen.toNat s.capacity
  · by_cases h2 : s.mlen.toNat % 2 = 0
    · cases hx : hexText (s.readByte .abuf) s.mlen.toNat with
      | true =>
        exact ignoresAbuf_of_output (exec_h2b_ok hfit h2 hx) (exec_h2b_ok hfit h2 ((hexText_congr h).trans hx))
          (h2bLoop_congr (fun j hj => h j (hj.trans_le (Nat.mul_div_le _ 2))) _)
      | false =>
        exact ignoresAbuf_of_error _ (exec_h2b_bad hfit (.inr hx)) (exec_h2b_bad hfit (.inr ((hexText_congr h).trans hx)))
    · exact ignoresAbuf_of_error _ (exec_h2b_bad hfit (.inl h2)) (exec_h2b_bad hfit (.inl h2))
  · exact ignoresAbuf_of_error _ (exec_h2b_over hover) (exec_h2b_over hover)

end

/-- Every command gives the same next state, but for ABUF, from an ABUF with the same operand bytes (20_memory.md R63). -/
theorem exec_ignoresAbuf (i : Instr)
    (h : ∀ j, j < operandBytes i s → (setBuf .abuf m s).readByte .abuf j = s.readByte .abuf j) : ignoresAbuf i m s := by
  cases i with
  | nop => exact ⟨_, rfl, rfl⟩
  | enc => exact ⟨_, rfl, rfl⟩
  | dec => exact ⟨_, rfl, rfl⟩
  | illegal w => exact ⟨_, rfl, rfl⟩
  | keyraw => exact ignoresAbuf_of_key rfl rfl (rawKey_congr h)
  | keyhex => exact keyhex_ignoresAbuf h
  | pad => exact pad_ignoresAbuf h
  | menc => exact menc_ignoresAbuf h
  | mdec => exact mdec_ignoresAbuf h
  | b2h => exact b2h_ignoresAbuf h
  | h2b => exact h2b_ignoresAbuf h

end

/-- Settles O55: the reads by command, the writes by the effect a command can have. -/
theorem commandsReadAndWriteOnlyTheirBytes : Obligations.CommandsReadAndWriteOnlyTheirBytes := by
  refine ⟨fun i s m h => exec_ignoresAbuf i h, fun i s t h => ⟨fun a => (exec_cases h).lt_olen_of_changed, ?_⟩⟩
  obtain ⟨-, habuf, -⟩ := commandsChangeOnlyTheirResults i s t h
  exact habuf

end Sys2Proof.Machine
end

section
/-!
PROOFS. The encoding of commands (30_encoding.md R80, R81, R83, R84): decoder and encoder undo each other, on words and on bytes, and
the rows of the opcode table part the words.
-/
namespace Sys2Proof
open Laws

/-! ### Words as bytes -/

/-- The four bytes of a word, taken together again, are the word (20_memory.md R57). -/
theorem wordOfBytes_byteOf (w : Word) :
    wordOfBytes (Machine.byteOf w 0) (Machine.byteOf w 1) (Machine.byteOf w 2) (Machine.byteOf w 3) = w :=
  Machine.memRead4_of_bytes (Machine.byteOf w) 0 w fun k _ => congrArg _ (Nat.zero_add k)

/-- The bytes of a word decode to what the word decodes to, and leave the bytes after them (30_encoding.md R80). -/
theorem decode_bytesOfWord_append (w : Word) (rest : List Byte) :
    decode (bytesOfWord w ++ rest) = .ok (decodeWord w, rest) :=
  congrArg (fun v => Except.ok (decodeWord v, rest)) (wordOfBytes_byteOf w)

/-! ### The decoder and the encoder -/

/-- The word of a well-formed command decodes to that command (30_encoding.md R84). -/
theorem decodeWord_encode {i : Instr} (h : i.wf = true) : decodeWord (encode i) = i := by
  cases i with
  | nop => exact RoundTrip.nop h
  | enc => exact RoundTrip.enc h
  | dec => exact RoundTrip.dec h
  | keyhex => exact RoundTrip.keyhex h
  | keyraw => exact RoundTrip.keyraw h
  | pad => exact RoundTrip.pad h
  | menc => exact RoundTrip.menc h
  | mdec => exact RoundTrip.mdec h
  | b2h => exact RoundTrip.b2h h
  | h2b => exact RoundTrip.h2b h
  | illegal w => exact RoundTrip.illegal w h

/-- Each of the words 0 to 9 is the word of a well-formed command of the opcode map (30_encoding.md R81). -/
theorem exists_opcodeMap_encode_eq : ∀ n < 10, ∃ p ∈ opcodeMap, p.2.wf = true ∧ encode p.2 = BitVec.ofNat 32 n := by
  decide

/-- Every word is the word of a well-formed command: one of the opcode map, or ILLEGAL (30_encoding.md R83). -/
theorem exists_wf_encode_eq (w : Word) : ∃ i : Instr, i.wf = true ∧ encode i = w := by
  by_cases h : 9#32 < w
  · exact ⟨.illegal w, decide_eq_true h, rfl⟩
  · have hw : w.toNat < 10 := Nat.lt_succ_of_le (BitVec.le_def.1 (BitVec.not_lt.1 h))
    obtain ⟨p, -, hwf, henc⟩ := exists_opcodeMap_encode_eq _ hw
    exact ⟨p.2, hwf, by rw [henc, BitVec.ofNat_toNat, BitVec.setWidth_eq]⟩

/-- Settles O3, from the bytes of a word and the decode of a command's word. -/
theorem decodeOfEncodeIsTheCommand : Obligations.DecodeOfEncodeIsTheCommand := by
  intro i rest h
  rw [encodeBytes, decode_bytesOfWord_append, decodeWord_encode h]

/-- Settles O4: the word is the word of a well-formed command, which is what it decodes to. -/
theorem encodeOfDecodeIsTheWord : Obligations.EncodeOfDecodeIsTheWord := by
  intro w
  obtain ⟨i, hwf, rfl⟩ := exists_wf_encode_eq w
  rw [decodeWord_encode hwf]
  exact ⟨hwf, rfl⟩

/-- Settles O1: the decode of each command's word, one command at a time. -/
theorem decoderIsTheOpcodeMap : Obligations.DecoderIsTheOpcodeMap :=
  ⟨RoundTrip.nop rfl, RoundTrip.enc rfl, RoundTrip.dec rfl, RoundTrip.keyhex rfl, RoundTrip.keyraw rfl, RoundTrip.pad rfl,
    RoundTrip.menc rfl, RoundTrip.mdec rfl, RoundTrip.b2h rfl, RoundTrip.h2b rfl,
    fun w h => RoundTrip.illegal w (decide_eq_true h)⟩

/-- Settles O2: each byte string is the bytes of a well-formed command, and the bytes after it. -/
theorem sampleCommandBytesDecode : Obligations.SampleCommandBytesDecode :=
  ⟨decodeOfEncodeIsTheCommand .nop [] rfl, decodeOfEncodeIsTheCommand .enc [] rfl,
    decodeOfEncodeIsTheCommand .keyhex [] rfl, decodeOfEncodeIsTheCommand .mdec [0x05] rfl,
    decodeOfEncodeIsTheCommand .h2b [] rfl, decodeOfEncodeIsTheCommand (.illegal 0x00000011) [] rfl,
    decodeOfEncodeIsTheCommand (.illegal 0x80000001) [] rfl⟩

/-- Settles O6, by the number of bytes: the decoder's first pattern is the strings of four and more. -/
theorem shortByteStringsHoldNoCommand : Obligations.ShortByteStringsHoldNoCommand := by
  intro l
  match l with
  | [] | [_] | [_, _] | [_, _, _] => simp [decode]
  | _ :: _ :: _ :: _ :: _ => simp [decode]

/-! ### The rows of the opcode table -/

/-- A row whose mask leaves out the low `k` bits holds the words whose bits above those are the number `c`. -/
theorem holds_shifted_iff {name : String} {k c : Nat} (hc : c * 2 ^ k < 2 ^ 32) (w : Word) :
    OpcodeRow.holds ⟨name, 0xFFFFFFFF#32 <<< k, BitVec.ofNat 32 c <<< k⟩ w = true ↔ w.toNat / 2 ^ k = c := by
  have hw : w.toNat / 2 ^ k * 2 ^ k < 2 ^ 32 := (Nat.div_mul_le_self _ _).trans_lt w.isLt
  have hmask : w &&& 0xFFFFFFFF#32 <<< k = w >>> k <<< k := BitVec.shiftLeft_ushiftRight.symm
  have hc' : c < 2 ^ 32 := (Nat.le_mul_of_pos_right c (Nat.two_pow_pos k)).trans_lt hc
  rw [OpcodeRow.holds, beq_iff_eq, hmask, ← BitVec.toNat_inj]
  simp only [BitVec.toNat_shiftLeft, BitVec.toNat_ushiftRight, BitVec.toNat_ofNat, Nat.shiftLeft_eq,
    Nat.shiftRight_eq_div_pow, Nat.mod_eq_of_lt hw, Nat.mod_eq_of_lt hc, Nat.mod_eq_of_lt hc']
  exact Nat.mul_left_inj (Nat.two_pow_pos k).ne'

/-- The row of bit `k`, the highest set bit of its words (30_encoding.md R83). -/
def highestBitRow (k : Nat) : OpcodeRow := ⟨"ILLEGAL", 0xFFFFFFFF#32 <<< k, 1#32 <<< k⟩

/-- The reserved rows are the row of OP 0xA and 0xB, the row of OP 0xC to 0xF, and those of bits 4 to 31. -/
theorem reservedRows_eq :
    reservedRows = ⟨"ILLEGAL", 0xFFFFFFFE, 0x0000000A⟩ :: ⟨"ILLEGAL", 0xFFFFFFFC, 0x0000000C⟩ ::
      (List.range' 4 28).map highestBitRow := rfl

/-- The row of bit `k` holds the words whose highest set bit is bit `k` (30_encoding.md R83). -/
theorem highestBitRow_holds_iff {k : Nat} (hk : k < 32) {w : Word} (hw : w.toNat ≠ 0) :
    (highestBitRow k).holds w = true ↔ k = w.toNat.log2 := by
  have hpow : 1 * 2 ^ k < 2 ^ 32 := by simpa using Nat.pow_lt_pow_right (by decide) hk
  rw [highestBitRow, holds_shifted_iff hpow, eq_comm (a := k), Nat.log2_eq_iff hw, Nat.div_eq_iff (Nat.two_pow_pos k)]
  omega

/-- No row of the defined commands holds a reserved word (30_encoding.md R83). -/
theorem filter_definedRows_of_reserved {w : Word} (h : 9#32 < w) : definedRows.filter (·.holds w) = [] := by
  have rows : ∀ r ∈ definedRows, r.mask = BitVec.allOnes 32 ∧ r.pattern ≤ 9#32 := by decide
  rw [List.filter_eq_nil_iff]
  intro r hr hholds
  obtain ⟨hmask, hpattern⟩ := rows r hr
  rw [OpcodeRow.holds, hmask, BitVec.and_allOnes, beq_iff_eq] at hholds
  exact BitVec.not_le.2 h (hholds ▸ hpattern)

/-- Of the rows of bits 4 to 31, the one of a word's highest set bit holds the word, and no other. -/
theorem filter_highestBitRows {w : Word} (hw : w.toNat ≠ 0) :
    ((List.range' 4 28).map highestBitRow).filter (·.holds w) =
      List.replicate ((List.range' 4 28).count w.toNat.log2) (highestBitRow w.toNat.log2) := by
  have holds_iff : ∀ k ∈ List.range' 4 28, (highestBitRow k).holds w = (k == w.toNat.log2) := fun k hk => by
    obtain ⟨-, hk⟩ := List.mem_range'_1.1 hk
    rw [Bool.eq_iff_iff, beq_iff_eq]
    exact highestBitRow_holds_iff hk hw
  rw [List.filter_map, ← List.map_replicate, ← List.filter_beq]
  exact congrArg _ (List.filter_congr holds_iff)

/-- Exactly one reserved row holds a reserved word: the row of OP 0xA and 0xB, the row of OP 0xC to 0xF, or the row of the word's
highest set bit (30_encoding.md R83). -/
theorem mnemonics_reservedRows {w : Word} (h : 9#32 < w) :
    (reservedRows.filter (·.holds w)).map OpcodeRow.mnemonic = ["ILLEGAL"] := by
  have h9 : 9 < w.toNat := h
  have hw : w.toNat ≠ 0 := by omega
  have hAB : OpcodeRow.holds ⟨"ILLEGAL", 0xFFFFFFFE, 0x0000000A⟩ w = true ↔ w.toNat / 2 ^ 1 = 5 :=
    holds_shifted_iff (k := 1) (c := 5) (by decide) w
  have hCF : OpcodeRow.holds ⟨"ILLEGAL", 0xFFFFFFFC, 0x0000000C⟩ w = true ↔ w.toNat / 2 ^ 2 = 3 :=
    holds_shifted_iff (k := 2) (c := 3) (by decide) w
  have hlog : w.toNat.log2 ∈ List.range' 4 28 ↔ 2 ^ 4 ≤ w.toNat := by
    rw [List.mem_range'_1, and_iff_left ((Nat.log2_lt hw).2 w.isLt), ← not_lt, Nat.log2_lt hw, not_lt]
  rw [reservedRows_eq, List.filter_cons, List.filter_cons, filter_highestBitRows hw]
  simp only [hAB, hCF]
  by_cases h16 : 2 ^ 4 ≤ w.toNat
  · rw [List.count_eq_one_of_mem List.nodup_range' (hlog.2 h16), if_neg (by omega), if_neg (by omega)]
    rfl
  · rw [List.count_eq_zero.2 (mt hlog.1 h16)]
    by_cases h12 : w.toNat < 12
    · rw [if_pos (by omega), if_neg (by omega)]
      rfl
    · rw [if_neg (by omega), if_pos (by omega)]
      rfl

/-- Settles O5: a reserved word is in no defined row and in one reserved row; the ten defined words are looked up in the table. -/
theorem opcodeTableRowsPartTheWords : Obligations.OpcodeTableRowsPartTheWords := by
  intro w
  obtain ⟨i, hwf, rfl⟩ := exists_wf_encode_eq w
  rw [decodeWord_encode hwf]
  cases i with
  | illegal w =>
    have h : 9#32 < w := of_decide_eq_true hwf
    rw [encode, opcodeTable, List.filter_append, filter_definedRows_of_reserved h]
    exact mnemonics_reservedRows h
  | _ => decide

end Sys2Proof
end

section
/-!
PROOFS. The life of a command (30_encoding.md R85 to R90): its issue, the step that completes it, and the whole of RUN with its
polls.
-/
namespace Sys2Proof.Machine

/-! ### Issue -/

/-- STATUS after an issue: BUSY alone is 1 (30_encoding.md R85). -/
theorem issue_statusWord (w : Word) (s : State) : (issue w s).statusWord = 0x00000001 := by
  apply BitVec.eq_of_toNat_eq
  rw [statusWord_toNat, busy_toNat]
  rfl

/-- irq after an issue is 0, since DONE is (30_encoding.md R85). -/
theorem issue_irq (w : Word) (s : State) : (issue w s).irq = false := Bool.and_false _

/-- Settles O10: while idle CMD is written, and while busy no access to CMD is admitted. -/
theorem issueOfACommand : Obligations.IssueOfACommand :=
  fun s w =>
    ⟨fun hidle => ⟨issue w s, access_write_idle hidle (target_cmd _) w, rfl, issue_irq w s, issue_statusWord w s⟩,
      fun hbusy => (busyAdmitsThreeAccesses s hbusy).2 _ (by simp)⟩

/-! ### The completion step -/

/-- When no input is left, the step while a command is in flight is the completion step of that command (30_encoding.md R87). -/
theorem step_no_input_busy {s : State} (hin : s.inputs = []) (hheld : s.resetHeld = false) (hbusy : s.phase = .busy) :
    step s = exec (decodeWord s.pend) s := by
  unfold step
  rw [hin]
  exact sequencerTurn_busy hheld hbusy

/-- Settles O7: the bytes of PEND decode to what PEND decodes to, which is what the sequencer's turn completes. -/
theorem stepRunsTheCommandInPend : Obligations.StepRunsTheCommandInPend := by
  intro s i rest hheld hbusy _ hdecode
  have hi : decodeWord s.pend = i := by
    have := (decode_bytesOfWord_append s.pend []).symm.trans hdecode
    simpa using this
  subst hi
  exact ⟨fun hin => step_no_input_busy hin hheld hbusy, fun hin => step_sequencer_busy hin hheld hbusy⟩

/-! ### RUN -/

/-- The step that issues a command from an idle state (30_encoding.md R85). -/
theorem step_issue {s : State} {w : Word} {rest : List Input} (hin : s.inputs = Script.W 0x000 w :: rest)
    (hheld : s.resetHeld = false) (hidle : s.phase = .idle) :
    step s = .next (withHost s.doneie rest (⟨.okay, none⟩ :: s.replies) (issue w s)) := by
  rw [step_access hin hheld, hostStep_setInputs, access_write_idle hidle (target_cmd _) w]
  rfl

/-- A poll reads STATUS and changes nothing, in every phase (20_memory.md R59, R60). -/
theorem step_poll {s : State} {rest : List Input} (hin : s.inputs = Script.R 0x004 :: rest) (hheld : s.resetHeld = false) :
    step s = .next (withHost s.doneie rest (⟨.okay, some s.statusWord⟩ :: s.replies) s) := by
  rw [step_access hin hheld, hostStep_setInputs, access_read_aligned (target_status _) (fun _ => rfl) 0]
  rfl

/-- Polls one after another all read the same STATUS (30_encoding.md R90). -/
theorem stepN_polls {s : State} (k : Nat) {rest : List Input} (hin : s.inputs = List.replicate k (Script.R 0x004) ++ rest)
    (hheld : s.resetHeld = false) :
    stepN k s =
      .next (withHost s.doneie rest (List.replicate k ⟨.okay, some s.statusWord⟩ ++ s.replies) s) := by
  induction k generalizing s with
  | zero => exact congrArg _ (by rw [show rest = s.inputs from hin.symm]; rfl)
  | succ k ih =>
    refine (stepN_succ (step_poll hin hheld)).trans ((ih rfl (by exact hheld)).trans ?_)
    rw [List.replicate_succ', List.append_assoc]
    rfl

/-- The step that completes a command leaves the host's parts of the state as they stand (30_encoding.md R86). -/
theorem step_sequencer_withHost (d : Bool) (rest : List Input) (r : List Reply) {s u : State} (hheld : s.resetHeld = false)
    (hbusy : s.phase = .busy) (hu : exec (decodeWord s.pend) s = .next u) :
    step (withHost d (.sequencer :: rest) r s) = .next (withHost d rest r u) := by
  have hexec := exec_withHost d rest r hu
  exact (step_sequencer_busy (s := withHost d _ r s) rfl hheld hbusy).trans hexec

/-- WAIT while a command is in flight (30_encoding.md R90): the polls see the STATUS of the state they find, the command completes,
and the last poll sees the STATUS the command leaves. -/
theorem stepN_wait {s u : State} {k : Nat} {rest : List Input} (hin : s.inputs = Script.WAIT k ++ rest)
    (hheld : s.resetHeld = false) (hbusy : s.phase = .busy) (hu : exec (decodeWord s.pend) s = .next u) :
    stepN (k + 2) s =
      .next (withHost s.doneie rest
        (⟨.okay, some u.statusWord⟩ :: (List.replicate k ⟨.okay, some s.statusWord⟩ ++ s.replies)) u) := by
  have hpolls := stepN_polls k (hin.trans (List.append_assoc _ _ _)) hheld
  have hturn := step_sequencer_withHost s.doneie (Script.R 0x004 :: rest)
    (List.replicate k ⟨.okay, some s.statusWord⟩ ++ s.replies) hheld hbusy hu
  obtain ⟨-, -, -, -, huheld, -⟩ := (exec_cases hu).frame
  exact (stepN_add hpolls).trans ((stepN_succ hturn).trans (stepN_succ (step_poll rfl (by exact huheld.trans hheld))))

/-- Settles O14: the issue is a step, and WAIT does the rest from the issued state, the host's parts of which the command neither
reads nor writes. -/
theorem runEndsWithTheCommandsResult : Obligations.RunEndsWithTheCommandsResult := by
  intro s i k rest hheld hidle hwf hin
  obtain ⟨u, hu, heffect⟩ := exec_effect i (issue (encode i) s)
  obtain ⟨hdoneie, -⟩ := heffect.frame
  have hexec : exec (decodeWord (encode i)) (issue (encode i) s) = .next u := by rw [decodeWord_encode hwf, hu]
  have hwait := stepN_wait (s := withHost s.doneie (Script.WAIT k ++ rest) (⟨.okay, none⟩ :: s.replies)
    (issue (encode i) s)) rfl hheld rfl (exec_withHost _ _ _ hexec)
  refine ⟨u, hu, (stepN_succ (step_issue hin hheld hidle)).trans (hwait.trans ?_)⟩
  rw [← issue_statusWord (encode i) s, show s.doneie = u.doneie from hdoneie.symm]
  rfl

end Sys2Proof.Machine
end

section
/-!
PROOFS. The block cipher (41_block_cipher.md R101 to R108): the mixing function in numbers, the rounds of TEA_ENC and TEA_DEC and
their sums, the two inverse laws, and the commands ENC and DEC.
-/
namespace Sys2Proof.Machine

/-! ### The mixing function -/

/-- F in numbers (41_block_cipher.md R101): the shifts are a product and a quotient. -/
theorem mixF_toNat (x s a b : Word) :
    (mixF x s a b).toNat =
      ((x.toNat * 2 ^ 4 % 2 ^ 32 + a.toNat) % 2 ^ 32) ^^^ ((x.toNat + s.toNat) % 2 ^ 32) ^^^
        ((x.toNat / 2 ^ 5 + b.toNat) % 2 ^ 32) := by
  simp only [mixF, BitVec.toNat_xor, BitVec.toNat_add, BitVec.toNat_shiftLeft, BitVec.toNat_ushiftRight, Nat.shiftLeft_eq,
    Nat.shiftRight_eq_div_pow]

/-- Settles O34: F in numbers, and the example of R101. -/
theorem mixingFunction : Obligations.MixingFunction :=
  ⟨mixF_toNat, by decide⟩

/-! ### The rounds and their sums -/

/-- A loop whose body does not look at the count is the iterate of the body. -/
theorem loop_const_eq_iterate {α : Type} (f : α → α) (n : Nat) (a : α) : loop n (fun _ => f) a = f^[n] a := by
  induction n with
  | zero => rfl
  | succ n ih => rw [loop_succ, ih, Function.iterate_succ_apply']

/-- The sum of TEA_DEC after `n` rounds: `n` copies of DELTA below the start (41_block_cipher.md R103). -/
theorem decRounds_sum (n : Nat) (v0 v1 : Word) (k : Key) :
    (decRounds n v0 v1 k).sum = DECSUM - BitVec.ofNat 32 n * DELTA := by
  induction n with
  | zero => simp [decRounds]
  | succ n ih =>
    rw [decRounds_succ, decRound_sum, ih, BitVec.ofNat_add, BitVec.add_mul, BitVec.sub_sub]
    simp

/-- The start of decryption is the sum of 32 rounds (41_block_cipher.md R104). -/
theorem rounds_mul_delta : BitVec.ofNat 32 ROUNDS * DELTA = DECSUM := by decide

/-- TEA_ENC ends with its block and with the sum TEA_DEC starts from (41_block_cipher.md R104). -/
theorem encRounds_last (v0 v1 : Word) (k : Key) :
    encRounds ROUNDS v0 v1 k = ⟨DECSUM, (teaEnc v0 v1 k).1, (teaEnc v0 v1 k).2⟩ := by
  rw [← rounds_mul_delta, ← encRounds_sum ROUNDS v0 v1 k]
  rfl

/-- TEA_DEC ends with its block and with the sum TEA_ENC starts from (41_block_cipher.md R103). -/
theorem decRounds_last (v0 v1 : Word) (k : Key) :
    decRounds ROUNDS v0 v1 k = ⟨0, (teaDec v0 v1 k).1, (teaDec v0 v1 k).2⟩ := by
  have hsum : (decRounds ROUNDS v0 v1 k).sum = 0 := by
    rw [decRounds_sum, rounds_mul_delta]
    exact BitVec.sub_self DECSUM
  rw [← hsum]
  rfl

/-- Round `n + 1` of TEA_ENC adds to the sum of round `n` what makes it `n + 1` times DELTA (41_block_cipher.md R102). -/
theorem encRounds_next_sum (n : Nat) (v0 v1 : Word) (k : Key) :
    (encRounds n v0 v1 k).sum + DELTA = BitVec.ofNat 32 ((n + 1) * 0x9E3779B9) := by
  rw [← encRound_sum k, ← encRounds_succ, encRounds_sum, BitVec.ofNat_mul]
  rfl

/-- Settles O35: the working values are those of `encRounds`, whose sums are the multiples of DELTA. -/
theorem teaEncIsThirtyTwoRounds : Obligations.TeaEncIsThirtyTwoRounds := by
  intro v0 v1 k
  refine ⟨fun r => (encRounds r v0 v1 k).v0, fun r => (encRounds r v0 v1 k).v1, rfl, rfl, fun r _ => ?_, rfl⟩
  rw [← encRounds_next_sum r v0 v1 k]
  exact ⟨rfl, rfl⟩

/-- Settles O36: the working values are those of `decRounds`, whose sum ends at 0. -/
theorem teaDecIsThirtyTwoRounds : Obligations.TeaDecIsThirtyTwoRounds := by
  intro v0 v1 k
  exact ⟨fun r => (decRounds r v0 v1 k).v0, fun r => (decRounds r v0 v1 k).v1, fun r => (decRounds r v0 v1 k).sum, rfl, rfl, rfl,
    fun r _ => ⟨rfl, rfl, rfl⟩, rounds_mul_delta.symm, congrArg Round.sum (decRounds_last v0 v1 k), rfl⟩

/-! ### The inverse laws -/

/-- TEA_DEC undoes TEA_ENC (41_block_cipher.md R107): its rounds start where those of TEA_ENC end, and undo them one by one. -/
theorem teaDec_teaEnc (v0 v1 : Word) (k : Key) : teaDec (teaEnc v0 v1 k).1 (teaEnc v0 v1 k).2 k = (v0, v1) := by
  have hinv : Function.LeftInverse (decRound k)^[ROUNDS] (encRound k)^[ROUNDS] :=
    Function.LeftInverse.iterate (decRound_encRound k) ROUNDS
  have hrounds : decRounds ROUNDS (teaEnc v0 v1 k).1 (teaEnc v0 v1 k).2 k = ⟨0, v0, v1⟩ := by
    rw [decRounds, ← encRounds_last, encRounds, loop_const_eq_iterate, loop_const_eq_iterate, hinv]
  rw [teaDec, hrounds]

/-- TEA_ENC undoes TEA_DEC: its rounds start where those of TEA_DEC end, and undo them one by one. -/
theorem teaEnc_teaDec (v0 v1 : Word) (k : Key) : teaEnc (teaDec v0 v1 k).1 (teaDec v0 v1 k).2 k = (v0, v1) := by
  have hinv : Function.LeftInverse (encRound k)^[ROUNDS] (decRound k)^[ROUNDS] :=
    Function.LeftInverse.iterate (encRound_decRound k) ROUNDS
  have hrounds : encRounds ROUNDS (teaDec v0 v1 k).1 (teaDec v0 v1 k).2 k = ⟨DECSUM, v0, v1⟩ := by
    rw [encRounds, ← decRounds_last, decRounds, loop_const_eq_iterate, loop_const_eq_iterate, hinv]
  rw [teaEnc, hrounds]

/-- Settles O38. -/
theorem encUndoesDec : Obligations.EncUndoesDec := teaEnc_teaDec

/-! ### The commands -/

/-- What ENC answers (41_block_cipher.md R105). -/
theorem exec_enc (s : State) : exec .enc s = .next (completeOk (setBlock (teaEnc s.v0 s.v1 s.key) s)) := rfl

/-- What DEC answers (41_block_cipher.md R106). -/
theorem exec_dec (s : State) : exec .dec s = .next (completeOk (setBlock (teaDec s.v0 s.v1 s.key) s)) := rfl

/-- The state in which a block command completes, field by field (30_encoding.md R86). -/
theorem completeOk_setBlock (e : Word × Word) (s : State) :
    completeOk (setBlock e s) = State.succeeded { s with v0 := e.1, v1 := e.2 } := rfl

/-- The zero block under the zero key (41_block_cipher.md R105). -/
theorem teaEnc_zero : teaEnc 0 0 ⟨0, 0, 0, 0⟩ = (0x41EA3A0A, 0x94BAA940) := by decide

/-- The block of R106's example goes back to the zero block, since it is what `teaEnc_zero` makes of it. -/
theorem teaDec_to_zero : teaDec 0x41EA3A0A 0x94BAA940 ⟨0, 0, 0, 0⟩ = (0, 0) := by
  simpa only [teaEnc_zero] using teaDec_teaEnc 0 0 ⟨0, 0, 0, 0⟩

/-- Settles O37: DEC finds in V0 and V1 the block that ENC left, and the key that ENC and the issue keep. -/
theorem decUndoesEnc : Obligations.DecUndoesEnc := by
  refine ⟨teaDec_teaEnc, fun s => ⟨_, _, exec_enc s, exec_dec _, ?_⟩⟩
  simp [teaDec_teaEnc]

/-- Settles O40. -/
theorem encCommand : Obligations.EncCommand := by
  refine ⟨Laws.RoundTrip.enc rfl, fun s => ⟨_, exec_enc s, completeOk_setBlock _ s, fun hkey hv0 hv1 => ?_⟩⟩
  simp only [completeOk_v0, completeOk_v1, setBlock_v0, setBlock_v1, hkey, hv0, hv1, teaEnc_zero, and_self]

/-- Settles O41. -/
theorem decCommand : Obligations.DecCommand := by
  refine ⟨Laws.RoundTrip.dec rfl, fun s => ⟨_, exec_dec s, completeOk_setBlock _ s, fun hkey hv0 hv1 => ?_⟩⟩
  simp only [completeOk_v0, completeOk_v1, setBlock_v0, setBlock_v1, hkey, hv0, hv1, teaDec_to_zero, and_self]

/-- Settles O42: both states give the same operands to the same function. -/
theorem blockCommandsDependOnBlockAndKeyAlone : Obligations.BlockCommandsDependOnBlockAndKeyAlone := by
  rintro i s s' (rfl | rfl) hv0 hv1 hkey
  · exact ⟨_, _, exec_enc s, exec_enc s', by simp [hv0, hv1, hkey]⟩
  · exact ⟨_, _, exec_dec s, exec_dec s', by simp [hv0, hv1, hkey]⟩

end Sys2Proof.Machine
end

section
/-!
PROOFS. Key loading (42_key_schedule.md): the words KEYHEX reads as numbers in base 16 (R121), the words KEYRAW reads (R122), and
that nothing but these two commands and reset changes the key (R124).
-/
namespace Sys2Proof.Machine

/-! ### Hexadecimal numbers -/

/-- One more digit makes the number sixteen times as large and adds the digit (42_key_schedule.md R121). -/
theorem hexNumber_succ (B : Nat → Byte) (start n : Nat) :
    hexNumber B start (n + 1) = 16 * hexNumber B start n + (digit (B (start + n))).toNat := by
  simp [hexNumber, List.range_succ]

/-- A number of `n` hexadecimal digits is below 16 to the power `n`. -/
theorem hexNumber_lt (B : Nat → Byte) (start n : Nat) : hexNumber B start n < 16 ^ n := by
  induction n with
  | zero => exact Nat.one_pos
  | succ n ih =>
    have hdigit := (digit (B (start + n))).isLt
    rw [hexNumber_succ, Nat.pow_succ]
    omega

/-- A digit shifted into a word whose highest nibble is 0 (42_key_schedule.md R121). -/
theorem toNat_shiftInDigit {w : Word} (h : w.toNat < 2 ^ 28) (d : Nibble) :
    (w.extractLsb' 0 28 ++ d).toNat = 16 * w.toNat + d.toNat := by
  rw [toNat_append_eq_add, BitVec.extractLsb'_toNat, Nat.shiftRight_zero, Nat.mod_eq_of_lt h, Nat.add_comm]
  rfl

/-- A key word of KEYHEX is the number its eight characters write (42_key_schedule.md R121): no nibble is shifted out, since the
number of the digits before the last is below 16 to the power 7. -/
theorem hexWord_toNat (B : Nat → Byte) (j : Nat) : (hexWord B j).toNat = hexNumber B (8 * j) 8 := by
  refine loop_induction (fun n (w : Word) => w.toNat = hexNumber B (8 * j) n) rfl 8 fun k w hk hw => ?_
  have hlt : w.toNat < 2 ^ 28 :=
    calc w.toNat = hexNumber B (8 * j) k := hw
      _ < 16 ^ k := hexNumber_lt B (8 * j) k
      _ ≤ 16 ^ 7 := Nat.pow_le_pow_right (by decide) (Nat.le_of_lt_succ hk)
  rw [toNat_shiftInDigit hlt, hw, hexNumber_succ]

/-! ### The commands -/

/-- What KEYRAW answers (42_key_schedule.md R122). -/
theorem exec_keyraw (s : State) : exec .keyraw s = .next (completeOk (setKey (rawKey (s.readByte .abuf)) s)) := rfl

/-- The state in which a key command completes, field by field (30_encoding.md R86). -/
theorem completeOk_setKey (k : Key) (s : State) : completeOk (setKey k s) = State.succeeded { s with key := k } := rfl

/-- Word `j` of a raw key is read at byte `4 * j` (42_key_schedule.md R122). -/
theorem rawKey_word (B : Nat → Byte) {j : Nat} (hj : j < 4) :
    [(rawKey B).k0, (rawKey B).k1, (rawKey B).k2, (rawKey B).k3].getD j 0 = memRead4 B (4 * j) := by
  interval_cases j <;> rfl

/-- Settles O46: with 32 digits each key word is the number of its characters; without them the length or a character is at
fault. -/
theorem keyhexCommand : Obligations.KeyhexCommand := by
  refine ⟨Laws.RoundTrip.keyhex rfl, fun s => ⟨fun hlen hdigits => ?_, fun hbad => ?_⟩⟩
  · exact ⟨_, exec_keyhex_ok hlen ((hexText_iff _ _).2 hdigits), completeOk_setKey _ s, hexWord_toNat _ 0, hexWord_toNat _ 1,
      hexWord_toNat _ 2, hexWord_toNat _ 3⟩
  · exact exec_keyhex_bad (hbad.imp_right (hexText_false_iff _ _).2)

/-- Settles O47: each key word is a MemRead of ABUF, which is the number of its four bytes. -/
theorem keyrawCommand : Obligations.KeyrawCommand := by
  refine ⟨Laws.RoundTrip.keyraw rfl, fun s => ⟨_, exec_keyraw s, completeOk_setKey _ s, fun j hj => ?_⟩⟩
  rw [completeOk_key, setKey_key, rawKey_word _ hj, memRead4_toNat]

/-! ### What changes the key -/

/-- No host access changes the key (42_key_schedule.md R124). -/
theorem hostStep_key (a : Access) (s : State) : (hostStep a s).key = s.key := by
  obtain ⟨-, -, -, -, -, hkey, -⟩ := access_keeps s a
  exact hkey

/-- A command that changes the key is KEYHEX or KEYRAW, and completes without error (42_key_schedule.md R124). -/
theorem Effect.completes_of_key_ne {s t : State} {i : Instr} (he : Effect s i t) (hne : t.key ≠ s.key) :
    t.phase = .idle ∧ t.done = true ∧ t.err = false ∧ (i = .keyhex ∨ i = .keyraw) := by
  cases he with
  | key h _ => exact ⟨rfl, rfl, rfl, h⟩
  | _ => exact absurd rfl hne

/-- The sequencer's turn while a command is in flight leaves what that command gives, but for the inputs to come
(30_encoding.md R86, R87). -/
theorem exec_of_turn_busy {s t : State} (hin : s.inputs = [] ∨ ∃ rest, s.inputs = .sequencer :: rest)
    (hheld : s.resetHeld = false) (hbusy : s.phase = .busy) (h : step s = .next t) :
    ∃ u l, exec (decodeWord s.pend) s = .next u ∧ t = setInputs l u := by
  obtain hnil | ⟨rest, hcons⟩ := hin
  · exact ⟨t, t.inputs, (step_no_input_busy hnil hheld hbusy).symm.trans h, rfl⟩
  · obtain ⟨u, hu, -⟩ := exec_effect (decodeWord s.pend) s
    rw [step_sequencer_busy hcons hheld hbusy, exec_setInputs rest hu] at h
    cases h
    exact ⟨u, rest, hu, rfl⟩

/-- Settles O19: by the cases of a step, a reset or the turn that completes a key command is what changes the key; the host's
WRITEs reach registers it cannot write, its READs registers it can read while idle. -/
theorem keyIsSetByKeyCommandsAlone : Obligations.KeyIsSetByKeyCommandsAlone := by
  refine ⟨fun s t h hne => ?steps, fun s w => ⟨?writes, fun hidle => ?reads⟩⟩
  case steps =>
    obtain ⟨u, hu, hturn⟩ | ⟨a, rest, -, -, rfl⟩ | ⟨rest, hin, rfl⟩ | ⟨rest, -, rfl⟩ := step_cases h
    · obtain ⟨rfl, -⟩ | ⟨hheld, hbusy, -⟩ := hturn
      · obtain ⟨rfl, -⟩ | ⟨rest, rfl, -⟩ := hu <;> exact absurd rfl hne
      · have hin : s.inputs = [] ∨ ∃ rest, s.inputs = .sequencer :: rest :=
          hu.imp And.right fun ⟨rest, _, hcons⟩ => ⟨rest, hcons⟩
        obtain ⟨v, l, hv, rfl⟩ := exec_of_turn_busy hin hheld hbusy h
        obtain ⟨hphase, hdone, herr, hi⟩ := (exec_cases hv).completes_of_key_ne hne
        exact .inr ⟨hin, hbusy, hheld, hphase, hdone, herr, hi, v, hv, rfl⟩
    · exact absurd (hostStep_key a (setInputs rest s)) hne
    · exact .inl ⟨⟨rest, hin⟩, rfl⟩
    · exact absurd rfl hne
  case writes =>
    rintro off (rfl | rfl | rfl | rfl)
    · exact erroneous_of_readOnly rfl (target_key0 _) rfl
    · exact erroneous_of_readOnly rfl (target_key1 _) rfl
    · exact erroneous_of_readOnly rfl (target_key2 _) rfl
    · exact erroneous_of_readOnly rfl (target_key3 _) rfl
  case reads =>
    exact ⟨access_read_idle hidle (target_key0 _) w, access_read_idle hidle (target_key1 _) w,
      access_read_idle hidle (target_key2 _) w, access_read_idle hidle (target_key3 _) w⟩

end Sys2Proof.Machine
end

section
/-!
PROOFS. The message codec (43_message_codec.md): PAD, MENC and MDEC byte by byte (R137 to R140), what ECB shows of equal blocks
(R141), the way back through MDEC (R142), and that the three commands leave V0 and V1 alone (R143).
-/
namespace Sys2Proof.Machine

/-! ### Blocks of bytes -/

/-- Blocks of the same eight bytes go to the same bytes, place by place (43_message_codec.md R136). -/
theorem blockByte_congr (f : Word → Word → Word × Word) {T T' : Nat → Byte} {a b : Nat} (hab : a % 8 = b % 8)
    (h : ∀ k, k < 8 → T (8 * (a / 8) + k) = T' (8 * (b / 8) + k)) : blockByte f T a = blockByte f T' b := by
  have hword : ∀ i, i + 4 ≤ 8 → memRead4 T (8 * (a / 8) + i) = memRead4 T' (8 * (b / 8) + i) := fun i hi =>
    memRead4_congr (B := fun k => T (8 * (a / 8) + k)) (B' := fun k => T' (8 * (b / 8) + k)) h hi
  rw [blockByte, blockByte, show memRead4 T (8 * (a / 8)) = memRead4 T' (8 * (b / 8)) from hword 0 (by omega),
    hword 4 (by omega), hab]

/-- A function of blocks that undoes another gives back the bytes (43_message_codec.md R142). -/
theorem blockByte_blockByte {f g : Word → Word → Word × Word} (hgf : ∀ v0 v1, g (f v0 v1).1 (f v0 v1).2 = (v0, v1))
    (T : Nat → Byte) (a : Nat) : blockByte g (blockByte f T) a = T a := by
  obtain ⟨hfirst, hsecond⟩ := Prod.mk.inj (words_of_blockByte f T (blockByte f T) (a / 8) fun _ _ => rfl)
  rw [blockByte, hfirst, hsecond, hgf]
  split
  · rw [byteOf_memRead4 _ _ _ ‹_›, Nat.div_add_mod]
  · rw [byteOf_memRead4 _ _ _ (by omega)]
    congr 1
    omega

/-! ### The bytes of BBUF -/

/-- The state in which a buffer-producing command completes, field by field (30_encoding.md R86). -/
theorem completeOk_setOutput (m : Memory) (n : Nat) (s : State) :
    completeOk (setOutput m n s) = State.succeeded { s with bbuf := m, olen := BitVec.ofNat 32 n } := rfl

/-- The padded message as the commands form it is the one of the statements (43_message_codec.md R137, R138). -/
theorem padded_eq_paddedByte (s : State) : padded (s.readByte .abuf) s.mlen.toNat = paddedByte s := rfl

theorem paddedByte_of_lt {s : State} {a : Nat} (h : a < s.mlen.toNat) : paddedByte s a = s.readByte .abuf a := if_pos h

theorem paddedByte_of_ge {s : State} {a : Nat} (h : s.mlen.toNat ≤ a) : paddedByte s a = 0 := if_neg (Nat.not_lt.2 h)

/-- Every byte of BBUF after PAD (43_message_codec.md R137). -/
theorem readByte_pad (s : State) (a : Nat) :
    (completeOk (setOutput (padLoop (s.readByte .abuf) s.mlen.toNat s.bbuf) (ceil8 s.mlen.toNat) s)).readByte .bbuf a =
      if a < ceil8 s.mlen.toNat then paddedByte s a else s.readByte .bbuf a :=
  readByte_output s _ a (find_padLoop _ _ _ a)

/-- A byte of BBUF below OLEN after MENC (43_message_codec.md R138). -/
theorem readByte_menc_of_lt {s : State} {a : Nat} (ha : a < ceil8 s.mlen.toNat) :
    (completeOk (setOutput (mencBuf s) (ceil8 s.mlen.toNat) s)).readByte .bbuf a =
      blockByte (fun v0 v1 => teaEnc v0 v1 s.key) (paddedByte s) a := by
  rw [readByte_menc, if_pos ha, padded_eq_paddedByte]

/-- A byte of BBUF below OLEN after MDEC (43_message_codec.md R139). -/
theorem readByte_mdec_of_lt {s : State} (h8 : s.mlen.toNat % 8 = 0) {a : Nat} (ha : a < s.mlen.toNat) :
    (completeOk (setOutput (mdecBuf s) s.mlen.toNat s)).readByte .bbuf a =
      blockByte (fun v0 v1 => teaDec v0 v1 s.key) (s.readByte .abuf) a := by
  rw [readByte_mdec h8, if_pos ha]

/-- A block that begins below a multiple of 8 ends below it. -/
theorem block_lt {n j k : Nat} (hn : n % 8 = 0) (hj : 8 * j < n) (hk : k < 8) : 8 * j + k < n := by omega

/-! ### The commands -/

/-- Settles O49: PAD's byte below OLEN is the padded message's, split at MLEN. -/
theorem padCommand : Obligations.PadCommand := by
  refine ⟨Laws.RoundTrip.pad rfl, fun s => ⟨fun hfit => ?_, exec_pad_over⟩⟩
  refine ⟨_, exec_pad_ok hfit, completeOk_setOutput _ _ s, olen_output _ (ceil8_le_capacity hfit), fun a ha => ?message,
    fun a ha hlt => ?padding, fun a ha => ?tail⟩
  case message => rw [readByte_pad, if_pos (ha.trans_le (le_ceil8 _)), paddedByte_of_lt ha]
  case padding => rw [readByte_pad, if_pos hlt, paddedByte_of_ge ha]
  case tail => rw [readByte_pad, if_neg (Nat.not_lt.2 ha)]

/-- Settles O50: the bytes of a block below OLEN are those of TEA_ENC's two words. -/
theorem mencCommand : Obligations.MencCommand := by
  refine ⟨Laws.RoundTrip.menc rfl, fun s => ⟨fun hfit => ?_, exec_menc_over⟩⟩
  refine ⟨_, exec_menc_ok hfit, completeOk_setOutput _ _ s, olen_output _ (ceil8_le_capacity hfit), fun j hj => ?block,
    fun a ha => ?tail⟩
  case block =>
    exact words_of_blockByte (fun v0 v1 => teaEnc v0 v1 s.key) _ _ j fun k hk =>
      readByte_menc_of_lt (block_lt (ceil8_mod _) hj hk)
  case tail => rw [readByte_menc, if_neg (Nat.not_lt.2 ha)]

/-- Settles O51: the bytes of a block below MLEN are those of TEA_DEC's two words, and OLEN takes MLEN whole. -/
theorem mdecCommand : Obligations.MdecCommand := by
  refine ⟨Laws.RoundTrip.mdec rfl, fun s => ⟨fun hfit h8 => ?_, exec_mdec_over, exec_mdec_length⟩⟩
  refine ⟨_, exec_mdec_ok hfit h8, completeOk_setOutput _ _ s, BitVec.eq_of_toNat_eq (olen_output _ hfit), fun j hj => ?block,
    fun a ha => ?tail⟩
  case block =>
    exact words_of_blockByte (fun v0 v1 => teaDec v0 v1 s.key) _ _ j fun k hk =>
      readByte_mdec_of_lt h8 (block_lt h8 hj hk)
  case tail => rw [readByte_mdec h8, if_neg (Nat.not_lt.2 ha)]

/-! ### Equal blocks, and the way back -/

/-- Settles O52: both places hold the bytes of equal blocks. -/
theorem equalBlocksEncryptEqually : Obligations.EqualBlocksEncryptEqually := by
  intro s a b hfit ha hb heq
  refine ⟨_, exec_menc_ok hfit, fun k hk => ?_⟩
  rw [readByte_menc_of_lt (block_lt (ceil8_mod _) ha hk), readByte_menc_of_lt (block_lt (ceil8_mod _) hb hk)]
  refine blockByte_congr _ (by omega) fun l hl => ?_
  rw [show (8 * a + k) / 8 = a by omega, show (8 * b + k) / 8 = b by omega]
  exact heq l hl

/-- MDEC of the blocks MENC made under the same key gives the padded message (43_message_codec.md R142). -/
theorem readByte_mdec_of_menc {s u : State} (hkey : u.key = s.key) (hlen : u.mlen.toNat = ceil8 s.mlen.toNat)
    (hcopy : ∀ i, i < ceil8 s.mlen.toNat →
      u.readByte .abuf i = blockByte (fun v0 v1 => teaEnc v0 v1 s.key) (paddedByte s) i) {a : Nat}
    (ha : a < ceil8 s.mlen.toNat) :
    (completeOk (setOutput (mdecBuf u) u.mlen.toNat u)).readByte .bbuf a = paddedByte s a := by
  have h8 : ceil8 s.mlen.toNat % 8 = 0 := ceil8_mod _
  calc (completeOk (setOutput (mdecBuf u) u.mlen.toNat u)).readByte .bbuf a
      = blockByte (fun v0 v1 => teaDec v0 v1 s.key) (u.readByte .abuf) a := by
        rw [readByte_mdec_of_lt (hlen ▸ h8) (hlen ▸ ha), hkey]
    _ = blockByte (fun v0 v1 => teaDec v0 v1 s.key)
          (blockByte (fun v0 v1 => teaEnc v0 v1 s.key) (paddedByte s)) a :=
        blockByte_congr _ rfl fun k hk => hcopy _ (by omega)
    _ = paddedByte s a :=
        blockByte_blockByte (f := fun v0 v1 => teaEnc v0 v1 s.key) (g := fun v0 v1 => teaDec v0 v1 s.key)
          (fun v0 v1 => teaDec_teaEnc v0 v1 s.key) _ a

/-- The padding in numbers (43_message_codec.md R142). -/
theorem ceil8_eq_add (n : Nat) : ceil8 n = n + (8 - n % 8) % 8 := by
  unfold ceil8
  omega

/-- Settles O53: the copy meets MDEC's conditions, and TEA_DEC undoes TEA_ENC block by block. -/
theorem messageRoundTrip : Obligations.MessageRoundTrip := by
  intro s hfit
  have holen := olen_output (mencBuf s) (ceil8_le_capacity hfit)
  refine ⟨_, exec_menc_ok hfit, fun u hbytes hkey hmlen hcopy => ?_⟩
  rw [holen] at hcopy
  have hlen : u.mlen.toNat = ceil8 s.mlen.toNat := hmlen ▸ holen
  have hfit' : u.mlen.toNat ≤ u.capacity := by
    rw [hlen, State.capacity, hbytes]
    exact ceil8_le_capacity hfit
  have hback {a : Nat} (ha : a < ceil8 s.mlen.toNat) :=
    readByte_mdec_of_menc hkey hlen (fun i hi => (hcopy i hi).trans (readByte_menc_of_lt hi)) ha
  have holen' := (olen_output (mdecBuf u) hfit').trans hlen
  refine ⟨_, exec_mdec_ok hfit' (hlen ▸ ceil8_mod _), rfl, holen'.trans (ceil8_eq_add _), fun i hi => ?message,
    fun i hi hlt => ?padding⟩
  case message => rw [hback (hi.trans_le (le_ceil8 _)), paddedByte_of_lt hi]
  case padding => rw [hback (holen' ▸ hlt), paddedByte_of_ge hi]

/-! ### V0 and V1 -/

/-- `i` gives from `s` the same next state with the block `e` in V0 and V1, but for those two registers. -/
def ignoresBlock (i : Instr) (e : Word × Word) (s : State) : Prop :=
  ∃ t, exec i s = .next t ∧ exec i (setBlock e s) = .next (setBlock e t)

theorem pad_ignoresBlock (e : Word × Word) (s : State) : ignoresBlock .pad e s := by
  obtain hfit | hover := le_or_gt s.mlen.toNat s.capacity
  · exact ⟨_, exec_pad_ok hfit, exec_pad_ok hfit⟩
  · exact ⟨_, exec_pad_over hover, exec_pad_over hover⟩

theorem menc_ignoresBlock (e : Word × Word) (s : State) : ignoresBlock .menc e s := by
  obtain hfit | hover := le_or_gt s.mlen.toNat s.capacity
  · exact ⟨_, exec_menc_ok hfit, exec_menc_ok hfit⟩
  · exact ⟨_, exec_menc_over hover, exec_menc_over hover⟩

theorem mdec_ignoresBlock (e : Word × Word) (s : State) : ignoresBlock .mdec e s := by
  obtain hfit | hover := le_or_gt s.mlen.toNat s.capacity
  · by_cases h8 : s.mlen.toNat % 8 = 0
    · exact ⟨_, exec_mdec_ok hfit h8, exec_mdec_ok hfit h8⟩
    · exact ⟨_, exec_mdec_length hfit h8, exec_mdec_length hfit h8⟩
  · exact ⟨_, exec_mdec_over hover, exec_mdec_over hover⟩

/-- Settles O54: the registers kept by the effect of a command that is none of ENC, DEC, KEYHEX and KEYRAW; the block ignored
command by command. -/
theorem messageCommandsLeaveTheBlockAlone : Obligations.MessageCommandsLeaveTheBlockAlone := by
  intro i s x y hi
  obtain ⟨t, ht, hblock⟩ : ignoresBlock i (x, y) s := by
    obtain rfl | rfl | rfl := hi
    · exact pad_ignoresBlock _ s
    · exact menc_ignoresBlock _ s
    · exact mdec_ignoresBlock _ s
  have he := exec_cases ht
  obtain ⟨hv0, hv1⟩ := he.block_eq (by rintro (rfl | rfl) <;> simp at hi)
  obtain ⟨-, -, habuf, -⟩ := he.frame
  exact ⟨t, ht, hv0, hv1, he.key_eq (by rintro (rfl | rfl) <;> simp at hi), habuf, hblock⟩

end Sys2Proof.Machine
end

section
/-!
PROOFS. The hex codec (44_hex_codec.md): B2H (R155) and H2B (R156) byte by byte, and the way back from a text whose spaces have
been removed (R157).
-/
namespace Sys2Proof.Machine

/-! ### Digits -/

/-- HEXVAL undoes HEXCHAR (00_scope.md R13). -/
theorem hexVal_hexChar : ∀ d : Nibble, hexVal (hexChar d) = some d := by decide

theorem digit_hexChar (d : Nibble) : digit (hexChar d) = d := by
  rw [digit, hexVal_hexChar, Option.getD_some]

/-- The space as the statements write it (00_scope.md R12). -/
theorem space_eq : space = 0x20 := rfl

/-- No digit is the space (44_hex_codec.md R156). -/
theorem hexChar_ne_space (d : Nibble) : hexChar d ≠ space := by
  intro h
  have hval : hexVal space = some d := h ▸ hexVal_hexChar d
  exact absurd hval nofun

/-- Two digits side by side are the number that two characters write in base 16 (44_hex_codec.md R156). -/
theorem digit_append_digit_toNat (B : Nat → Byte) (i : Nat) :
    (digit (B (2 * i)) ++ digit (B (2 * i + 1))).toNat = hexNumber B (2 * i) 2 := by
  rw [toNat_append_eq_add, hexNumber_succ, hexNumber_succ]
  simp only [hexNumber, List.range_zero, List.foldl_nil, Nat.add_zero]
  omega

/-! ### The text of B2H -/

/-- Nibble `j` of the bytes of `B`, the high nibble of a byte first (44_hex_codec.md R155). -/
def nibble (B : Nat → Byte) (j : Nat) : Nibble :=
  if j % 2 = 0 then (B (j / 2)).extractLsb' 4 4 else (B (j / 2)).extractLsb' 0 4

theorem nibble_high (B : Nat → Byte) (i : Nat) : nibble B (2 * i) = (B i).extractLsb' 4 4 := by
  rw [nibble, if_pos (by omega), show 2 * i / 2 = i by omega]

theorem nibble_low (B : Nat → Byte) (i : Nat) : nibble B (2 * i + 1) = (B i).extractLsb' 0 4 := by
  rw [nibble, if_neg (by omega), show (2 * i + 1) / 2 = i by omega]

/-- A byte is its two nibbles, the high one on the left (00_scope.md R7). -/
theorem nibble_append_nibble (B : Nat → Byte) (i : Nat) : nibble B (2 * i) ++ nibble B (2 * i + 1) = B i := by
  have hlt := (B i).isLt
  refine BitVec.eq_of_toNat_eq ?_
  rw [toNat_append_eq_add, nibble_high, nibble_low, BitVec.extractLsb'_toNat, BitVec.extractLsb'_toNat, Nat.shiftRight_zero,
    Nat.shiftRight_eq_div_pow]
  omega

theorem textByte_high (B : Nat → Byte) (i : Nat) : textByte B (3 * i) = hexChar (nibble B (2 * i)) := by
  rw [textByte, if_pos (by omega), show 3 * i / 3 = i by omega, nibble_high]

theorem textByte_low (B : Nat → Byte) (i : Nat) : textByte B (3 * i + 1) = hexChar (nibble B (2 * i + 1)) := by
  rw [textByte, if_neg (by omega), if_pos (by omega), show (3 * i + 1) / 3 = i by omega, nibble_low]

theorem textByte_space (B : Nat → Byte) (i : Nat) : textByte B (3 * i + 2) = space := by
  rw [textByte, if_neg (by omega), if_neg (by omega)]

/-- The number of characters is three for each byte, less the space after the last (44_hex_codec.md R155). -/
theorem hexLen_eq (n : Nat) : hexLen n = 3 * n - 1 := by
  unfold hexLen
  split <;> omega

/-- The text of `n` bytes, a space after every byte, without its spaces is the digits (44_hex_codec.md R157). -/
theorem filter_spacedText (B : Nat → Byte) (n : Nat) :
    ((List.range (3 * n)).map (textByte B)).filter (fun c => c ≠ space) =
      (List.range (2 * n)).map fun j => hexChar (nibble B j) := by
  induction n with
  | zero => rfl
  | succ n ih =>
    simp only [Nat.mul_succ, List.range_succ, List.map_append, List.filter_append, ih, List.map_cons, List.map_nil,
      textByte_high, textByte_low, textByte_space]
    simp [hexChar_ne_space]

/-- B2H's text without its spaces is the digits: the space after the last byte, which it lacks, would be removed too
(44_hex_codec.md R157). -/
theorem filter_text (B : Nat → Byte) (n : Nat) :
    ((List.range (hexLen n)).map (textByte B)).filter (fun c => c ≠ space) =
      (List.range (2 * n)).map fun j => hexChar (nibble B j) := by
  rw [← filter_spacedText]
  cases n with
  | zero => rfl
  | succ n =>
    rw [hexLen_eq, show 3 * (n + 1) - 1 = 3 * n + 2 by omega, show 3 * (n + 1) = 3 * n + 2 + 1 by omega,
      List.range_succ (n := 3 * n + 2), List.map_append, List.filter_append]
    simp [textByte_space]

/-! ### The bytes of BBUF -/

/-- The state in which B2H completes when its text fits. -/
def b2hDone (s : State) : State :=
  completeOk (setOutput (b2hLoop (s.readByte .abuf) s.mlen.toNat s.bbuf) (hexLen s.mlen.toNat) s)

/-- The state in which H2B completes when its text is one of digits. -/
def h2bDone (s : State) : State :=
  completeOk (setOutput (h2bLoop (s.readByte .abuf) (s.mlen.toNat / 2) s.bbuf) (s.mlen.toNat / 2) s)

/-- Every byte of BBUF after B2H (44_hex_codec.md R155). -/
theorem readByte_b2hDone (s : State) (a : Nat) :
    (b2hDone s).readByte .bbuf a =
      if a < hexLen s.mlen.toNat then textByte (s.readByte .abuf) a else s.readByte .bbuf a :=
  readByte_output s _ a (find_b2hLoop _ _ _ a)

/-- Every byte of BBUF after H2B (44_hex_codec.md R156). -/
theorem readByte_h2bDone (s : State) (a : Nat) :
    (h2bDone s).readByte .bbuf a =
      if a < s.mlen.toNat / 2 then digit (s.readByte .abuf (2 * a)) ++ digit (s.readByte .abuf (2 * a + 1))
      else s.readByte .bbuf a :=
  readByte_output s _ a (find_h2bLoop _ _ _ a)

/-- B2H's text fits when 3 * MLEN - 1 does: MLEN is not larger (44_hex_codec.md R155). -/
theorem exec_b2h_fits {s : State} (h : 3 * s.mlen.toNat - 1 ≤ s.capacity) : exec .b2h s = .next (b2hDone s) :=
  exec_b2h_ok (by omega) ((hexLen_eq _).trans_le h)

theorem olen_b2hDone {s : State} (h : 3 * s.mlen.toNat - 1 ≤ s.capacity) :
    (b2hDone s).olen.toNat = hexLen s.mlen.toNat :=
  olen_output _ ((hexLen_eq _).trans_le h)

theorem olen_h2bDone {s : State} (h : s.mlen.toNat ≤ s.capacity) : (h2bDone s).olen.toNat = s.mlen.toNat / 2 :=
  olen_output _ ((Nat.div_le_self _ 2).trans h)

/-! ### The commands -/

/-- Settles O56: each byte below OLEN is the text's, by its place in its group of three. -/
theorem b2hCommand : Obligations.B2hCommand := by
  refine ⟨Laws.RoundTrip.b2h rfl, fun s => ⟨fun hfit => ?_, fun hover => exec_b2h_over (hexLen_eq _ ▸ hover)⟩⟩
  have hlen := hexLen_eq s.mlen.toNat
  refine ⟨_, exec_b2h_fits hfit, completeOk_setOutput _ _ s, olen_b2hDone hfit, fun i hi => ⟨?high, ?low, fun hlast => ?blank⟩,
    fun a ha => ?tail⟩
  case high => rw [readByte_b2hDone, if_pos (by omega), textByte_high, nibble_high]
  case low => rw [readByte_b2hDone, if_pos (by omega), textByte_low, nibble_low]
  case blank => rw [readByte_b2hDone, if_pos (by omega), textByte_space, space_eq]
  case tail => rw [readByte_b2hDone, if_neg (Nat.not_lt.2 (olen_b2hDone hfit ▸ ha))]

/-- Settles O57: each byte below OLEN is two digits side by side, and the conditions are those of H2B's three checks. -/
theorem h2bCommand : Obligations.H2bCommand := by
  refine ⟨Laws.RoundTrip.h2b rfl, fun s => ⟨fun hfit heven hdigits => ?completes, exec_h2b_over, fun hfit hbad => ?bad⟩⟩
  case completes =>
    refine ⟨h2bDone s, exec_h2b_ok hfit heven ((hexText_iff _ _).2 hdigits), completeOk_setOutput _ _ s, olen_h2bDone hfit,
      fun i hi => ?_, fun a ha => ?_⟩
    · rw [readByte_h2bDone, if_pos hi, digit_append_digit_toNat]
    · rw [readByte_h2bDone, if_neg (Nat.not_lt.2 ha)]
  case bad => exact exec_h2b_bad hfit (hbad.imp_right (hexText_false_iff _ _).2)

/-! ### The way back -/

/-- What B2H leaves below OLEN, without its spaces (44_hex_codec.md R157). -/
theorem filter_b2hDone {s : State} (h : 3 * s.mlen.toNat - 1 ≤ s.capacity) :
    ((List.range (b2hDone s).olen.toNat).map ((b2hDone s).readByte .bbuf)).filter (fun c => c ≠ space) =
      (List.range (2 * s.mlen.toNat)).map fun j => hexChar (nibble (s.readByte .abuf) j) := by
  have htext : (List.range (hexLen s.mlen.toNat)).map ((b2hDone s).readByte .bbuf) =
      (List.range (hexLen s.mlen.toNat)).map (textByte (s.readByte .abuf)) :=
    List.map_congr_left fun a ha => by rw [readByte_b2hDone, if_pos (List.mem_range.1 ha)]
  rw [olen_b2hDone h, htext, filter_text]

/-- H2B takes the digits of `n` bytes and gives the bytes (44_hex_codec.md R157). -/
theorem exec_h2b_of_digits {u : State} {B : Nat → Byte} {n : Nat} (hfit : 2 * n ≤ u.capacity) (hmlen : u.mlen.toNat = 2 * n)
    (hdigits : ∀ j, j < 2 * n → u.readByte .abuf j = hexChar (nibble B j)) :
    exec .h2b u = .next (h2bDone u) ∧ (h2bDone u).olen.toNat = n ∧
      ∀ i, i < n → (h2bDone u).readByte .bbuf i = B i := by
  have hfit' : u.mlen.toNat ≤ u.capacity := hmlen.trans_le hfit
  have hdiv : u.mlen.toNat / 2 = n := by omega
  refine ⟨exec_h2b_ok hfit' (by omega) ((hexText_iff _ _).2 fun j hj => ?_), (olen_h2bDone hfit').trans hdiv, fun i hi => ?_⟩
  · rw [hdigits j (hmlen ▸ hj), hexVal_hexChar, Option.isSome_some]
  · rw [readByte_h2bDone, hdiv, if_pos hi, hdigits _ (by omega), hdigits _ (by omega), digit_hexChar, digit_hexChar,
      nibble_append_nibble]

/-- Settles O58: what is left of B2H's text is the digits of the bytes, which H2B takes back. -/
theorem hexRoundTrip : Obligations.HexRoundTrip := by
  intro s hfit
  refine ⟨_, exec_b2h_fits hfit, ?_⟩
  rintro _ rfl
  have hchars := filter_b2hDone hfit
  rw [space_eq] at hchars
  rw [hchars, List.length_map, List.length_range]
  refine ⟨rfl, fun u hbytes hmlen hcopy => ?_⟩
  have hfit' : 2 * s.mlen.toNat ≤ u.capacity := by
    rw [State.capacity, hbytes]
    exact le_trans (by omega) hfit
  obtain ⟨hexec, holen, hback⟩ := exec_h2b_of_digits (B := s.readByte .abuf) hfit' hmlen fun j hj => by
    rw [hcopy j hj]
    simp [hj]
  exact ⟨_, hexec, rfl, holen, hback⟩

end Sys2Proof.Machine
end

section
/-!
PROOFS. The control commands (45_control.md): NOP (R170) and the reserved words (R171), with the STATUS that a completion and a
recorded error leave.
-/
namespace Sys2Proof.Machine

/-! ### STATUS when a command has ended -/

/-- STATUS after a completion without an error: DONE alone is 1 (30_encoding.md R86). -/
theorem completeOk_statusWord (s : State) : (completeOk s).statusWord = 0x00000002 := by
  apply BitVec.eq_of_toNat_eq
  rw [statusWord_toNat, busy_toNat]
  rfl

/-- STATUS after an error: DONE, ERR and the error's ECODE (60_exceptions.md R186). -/
theorem recordError_statusWord_toNat (c : CmdError) (s : State) :
    (recordError c s).statusWord.toNat = 2 + 4 + 16 * c.code.toNat := by
  rw [statusWord_toNat, busy_toNat]
  rfl

/-! ### The commands -/

/-- What NOP answers (45_control.md R170). -/
theorem exec_nop (s : State) : exec .nop s = .next (completeOk s) := rfl

/-- What a reserved word answers (45_control.md R171). -/
theorem exec_illegal (w : Word) (s : State) : exec (.illegal w) s = .next (recordError .illegalCommand s) := rfl

/-- Settles O43: NOP completes with no effect of its own, so DONE alone is 1 in STATUS. -/
theorem nopCommand : Obligations.NopCommand :=
  ⟨Laws.RoundTrip.nop rfl, fun s => ⟨_, exec_nop s, rfl, completeOk_statusWord s⟩⟩

/-- Settles O44: a word above 9 is that of a well-formed ILLEGAL, whose error has ECODE 5. -/
theorem reservedWordsAreIllegal : Obligations.ReservedWordsAreIllegal := by
  refine fun w hw => ⟨Laws.RoundTrip.illegal w (decide_eq_true hw), fun s => ⟨_, exec_illegal w s, rfl, ?_⟩⟩
  exact BitVec.eq_of_toNat_eq (recordError_statusWord_toNat .illegalCommand s)

end Sys2Proof.Machine
end

section
/-!
PROOFS. Errors and the interrupt (60_exceptions.md): the codes of ECODE (R180), the completion of a command with and without an
error (R186), the order of its checks (R187), the level of irq with its rise and its clearing (R191, R192), and the idle sequencer
(R200).
-/
namespace Sys2Proof.Machine

/-! ### The codes of ECODE -/

/-- No error has a code above 5 (60_exceptions.md R180). -/
theorem ecodeField_toNat_le (e : Option CmdError) : (ecodeField e).toNat ≤ 5 := by
  cases e with
  | none => decide
  | some c => cases c <;> decide

/-- Bits 7:4 of STATUS are ECODE (10_state.md R26). -/
theorem statusWord_ecode (s : State) : s.statusWord.extractLsb' 4 4 = ecodeField s.ecode := by
  have hbusy := s.busy.toNat_lt
  have hdone := s.done.toNat_lt
  have herr := s.err.toNat_lt
  have hcode := (ecodeField s.ecode).isLt
  apply BitVec.eq_of_toNat_eq
  rw [BitVec.extractLsb'_toNat, statusWord_toNat, Nat.shiftRight_eq_div_pow]
  omega

/-- Settles O60: each code is its kind's number, and STATUS holds the code of a kind or of none. -/
theorem errorCodeNumbers : Obligations.ErrorCodeNumbers := by
  refine ⟨⟨rfl, rfl, rfl, rfl, rfl, rfl⟩, fun s => ⟨statusWord_ecode s, ?_⟩⟩
  rw [statusWord_ecode]
  exact ecodeField_toNat_le s.ecode

/-! ### The end of a command -/

/-- Every command ends with DONE = 1 and PHASE = IDLE (60_exceptions.md R186). -/
theorem Effect.done_and_idle {s t : State} {i : Instr} (he : Effect s i t) : t.done = true ∧ t.phase = .idle := by
  cases he <;> exact ⟨rfl, rfl⟩

/-- When a command ends, irq is DONEIE (60_exceptions.md R191). -/
theorem Effect.irq_eq_doneie {s t : State} {i : Instr} (he : Effect s i t) : t.irq = s.doneie := by
  obtain ⟨hdone, -⟩ := he.done_and_idle
  obtain ⟨hdoneie, -⟩ := he.frame
  rw [State.irq, hdone, hdoneie, Bool.and_true]

/-- An error discards every effect, so STATUS and PHASE alone change (60_exceptions.md R186). -/
theorem Effect.failedWith_of_err {s t : State} {i : Instr} (he : Effect s i t) (herr : t.err = true) :
    ∃ c, t = s.failedWith c := by
  cases he with
  | failed c => exact ⟨c, rfl⟩
  | _ => cases herr

/-- A command without an error leaves ECODE = 0 (30_encoding.md R86). -/
theorem Effect.ecode_of_no_err {s t : State} {i : Instr} (he : Effect s i t) (herr : t.err = false) : t.ecode = none := by
  cases he with
  | failed c => cases herr
  | _ => rfl

/-- Settles O11, from what each kind of effect leaves. -/
theorem commandErrorsAreAllOrNothing : Obligations.CommandErrorsAreAllOrNothing := by
  intro i s
  obtain ⟨t, ht, he⟩ := exec_effect i s
  obtain ⟨hdone, hidle⟩ := he.done_and_idle
  exact ⟨t, ht, hdone, hidle, he.irq_eq_doneie, he.failedWith_of_err, he.ecode_of_no_err⟩

/-! ### The order of the checks -/

section
variable {s u : State} {i : Instr} {c : CmdError}

/-- The command completes, and its ECODE is `e`. -/
def endsWith (i : Instr) (s : State) (e : Option CmdError) : Prop := ∃ t, exec i s = .next t ∧ t.ecode = e

theorem endsWith_of_error (h : exec i s = .next (recordError c s)) : endsWith i s (some c) := ⟨_, h, rfl⟩

theorem endsWith_of_ok (h : exec i s = .next (completeOk u)) : endsWith i s none := ⟨_, h, rfl⟩

/-- `exec` answers one state, so an ECODE it ends with is that state's. -/
theorem ecode_of_endsWith {t : State} {e : Option CmdError} (ht : exec i s = .next t) (h : endsWith i s e) : t.ecode = e := by
  obtain ⟨v, hv, rfl⟩ := h
  rw [ht] at hv
  cases hv
  rfl

end

/-- PAD and MENC check the capacity alone (60_exceptions.md R187). -/
theorem endsWith_pad_menc (s : State) {i : Instr} (hi : i = .pad ∨ i = .menc) :
    endsWith i s (if s.capacity < s.mlen.toNat then some .allocationFailure else none) := by
  split
  · next hover =>
    obtain rfl | rfl := hi
    · exact endsWith_of_error (exec_pad_over hover)
    · exact endsWith_of_error (exec_menc_over hover)
  · next hfit =>
    obtain rfl | rfl := hi
    · exact endsWith_of_ok (exec_pad_ok (Nat.not_lt.1 hfit))
    · exact endsWith_of_ok (exec_menc_ok (Nat.not_lt.1 hfit))

/-- MDEC checks the capacity, then the block length (60_exceptions.md R187). -/
theorem endsWith_mdec (s : State) :
    endsWith .mdec s (if s.capacity < s.mlen.toNat then some .allocationFailure
      else if s.mlen.toNat % 8 ≠ 0 then some .invalidBlockLength
      else none) := by
  split
  · next hover => exact endsWith_of_error (exec_mdec_over hover)
  · next hfit =>
    split
    · next h8 => exact endsWith_of_error (exec_mdec_length (Nat.not_lt.1 hfit) h8)
    · next h8 => exact endsWith_of_ok (exec_mdec_ok (Nat.not_lt.1 hfit) (not_not.1 h8))

/-- B2H checks that its input fits, then that its text does (60_exceptions.md R187). -/
theorem endsWith_b2h (s : State) :
    endsWith .b2h s (if s.capacity < s.mlen.toNat then some .allocationFailure
      else if 0 < s.mlen.toNat ∧ s.capacity < 3 * s.mlen.toNat - 1 then some .allocationFailure
      else none) := by
  split
  · next hover => exact endsWith_of_error (exec_b2h_over (.inl hover))
  · split
    · next htext =>
      obtain ⟨-, hlong⟩ := htext
      exact endsWith_of_error (exec_b2h_over (.inr (hlong.trans_eq (hexLen_eq _).symm)))
    · next htext => exact endsWith_of_ok (exec_b2h_fits (by omega))

/-- Settles O59: under each clause's conditions the command's result is already known. -/
theorem errorChecksInOrder : Obligations.ErrorChecksInOrder := by
  intro s
  refine ⟨?keyhex, fun i => endsWith_pad_menc s, endsWith_mdec s, endsWith_b2h s, ?h2b,
    fun w => endsWith_of_error (exec_illegal w s), ?neverFail⟩
  case keyhex =>
    obtain ⟨t, ht, -⟩ := exec_effect .keyhex s
    refine ⟨t, ht, fun hlen => ?_, fun _ hbad => ?_, fun hlen hdigits => ?_⟩ <;> refine ecode_of_endsWith ht ?_
    · exact endsWith_of_error (exec_keyhex_bad (.inl hlen))
    · exact endsWith_of_error (exec_keyhex_bad (.inr ((hexText_false_iff _ _).2 hbad)))
    · exact endsWith_of_ok (exec_keyhex_ok hlen
        ((hexText_iff _ _).2 fun i hi => Option.isSome_iff_ne_none.2 (hdigits i hi)))
  case h2b =>
    obtain ⟨t, ht, -⟩ := exec_effect .h2b s
    refine ⟨t, ht, fun hover => ?_, fun hfit hodd => ?_, fun hfit _ hbad => ?_, fun hfit heven hdigits => ?_⟩ <;>
      refine ecode_of_endsWith ht ?_
    · exact endsWith_of_error (exec_h2b_over hover)
    · exact endsWith_of_error (exec_h2b_bad hfit (.inl (by omega)))
    · exact endsWith_of_error (exec_h2b_bad hfit (.inr ((hexText_false_iff _ _).2 hbad)))
    · exact endsWith_of_ok (exec_h2b_ok hfit heven
        ((hexText_iff _ _).2 fun i hi => Option.isSome_iff_ne_none.2 (hdigits i hi)))
  case neverFail =>
    rintro i (rfl | rfl | rfl | rfl)
    · exact endsWith_of_ok (exec_nop s)
    · exact endsWith_of_ok (exec_enc s)
    · exact endsWith_of_ok (exec_dec s)
    · exact endsWith_of_ok (exec_keyraw s)

/-! ### The level of irq -/

/-- irq after a WRITE to INTEN (60_exceptions.md R191). -/
theorem writeInten_irq (w : Word) (s : State) : (writeInten w s).irq = (w.getLsbD 0 && s.done) := rfl

/-- A WRITE to STATUS with bit 1 set clears irq, and without it keeps irq (60_exceptions.md R192). -/
theorem clearStatus_irq (w : Word) (s : State) : (clearStatus w s).irq = (s.irq && !w.getLsbD 1) :=
  (Bool.and_assoc _ _ _).symm

/-- Reset clears DONE, and irq with it (60_exceptions.md R192). -/
theorem resetEvent_irq (s : State) : (resetEvent s).irq = false := rfl

/-- A WRITE to INTEN is admitted in every phase (20_memory.md R59, R60). -/
theorem access_write_inten (s : State) (w : Word) : access s ⟨.write, 0x008, 4, w⟩ = (writeInten w s, ⟨.okay, none⟩) :=
  access_write_aligned (target_inten _) (fun _ => rfl) w

/-- A WRITE that makes irq rise goes to INTEN and sets DONEIE while DONE = 1 (60_exceptions.md R191). -/
theorem inten_of_writeTarget_irq_rises {s : State} {t : Target} {w : Word} (hlow : s.irq = false)
    (hhigh : (writeTarget s t w).irq = true) : t = .inten ∧ s.done = true ∧ w.getLsbD 0 = true := by
  cases t with
  | inten =>
    obtain ⟨hset, hdone⟩ : w.getLsbD 0 = true ∧ s.done = true := by simpa [writeTarget, writeInten_irq] using hhigh
    exact ⟨rfl, hdone, hset⟩
  | cmd => exact absurd ((issue_irq w s).symm.trans hhigh) Bool.false_ne_true
  | status =>
    have hcleared : (clearStatus w s).irq = false := by rw [clearStatus_irq, hlow, Bool.false_and]
    exact absurd (hcleared.symm.trans hhigh) Bool.false_ne_true
  | word b i => cases b <;> exact absurd (hlow.symm.trans hhigh) Bool.false_ne_true
  | _ => exact absurd (hlow.symm.trans hhigh) Bool.false_ne_true

/-- An access after which irq has risen is a WRITE to INTEN that sets DONEIE while DONE = 1 (60_exceptions.md R191). -/
theorem AccessEffect.inten_of_irq_rises {s : State} {a : Access} {r : State × Reply} (he : AccessEffect s a r)
    (hlow : s.irq = false) (hhigh : r.1.irq = true) :
    s.done = true ∧ a = ⟨.write, 0x008, 4, a.wdata⟩ ∧ a.wdata.getLsbD 0 = true := by
  cases he with
  | error e _ => exact absurd (hlow.symm.trans hhigh) Bool.false_ne_true
  | read t _ _ => exact absurd (hlow.symm.trans hhigh) Bool.false_ne_true
  | write t hok hwrite =>
    obtain ⟨rfl, hdone, hset⟩ := inten_of_writeTarget_irq_rises hlow hhigh
    obtain ⟨hsize, -, htarget, -, -⟩ := admission_ok hok
    have hoffset := offset_of_target_inten htarget
    obtain ⟨kind, offset, size, wdata⟩ := a
    subst hsize hoffset hwrite
    exact ⟨hdone, rfl, hset⟩

/-- The step that takes the rise of the reset input is the reset event, in any state (70_reset_and_hazards.md R210). -/
theorem step_resetAssert {s : State} {rest : List Input} (hin : s.inputs = .resetAssert :: rest) :
    step s = .next (resetEvent (setInputs rest s)) := by
  rw [step, hin]

/-- A step after which irq has risen completes a command with DONEIE = 1, or sets DONEIE while DONE = 1 (60_exceptions.md R191). -/
theorem step_irq_rises {s t : State} (h : step s = .next t) (hlow : s.irq = false) (hhigh : t.irq = true) :
    (s.phase = .busy ∧ t.phase = .idle ∧ s.doneie = true) ∨
      (s.done = true ∧ ∃ w rest, s.inputs = .access ⟨.write, 0x008, 4, w⟩ :: rest ∧ w.getLsbD 0 = true) := by
  obtain ⟨u, hu, hturn⟩ | ⟨a, rest, hin, -, rfl⟩ | ⟨rest, -, rfl⟩ | ⟨rest, -, rfl⟩ := step_cases h
  · obtain ⟨hirq, hdoneie⟩ : u.irq = s.irq ∧ u.doneie = s.doneie := by
      obtain ⟨rfl, -⟩ | ⟨rest, rfl, -⟩ := hu <;> exact ⟨rfl, rfl⟩
    obtain ⟨rfl, -⟩ | ⟨-, hbusy, he⟩ := hturn
    · exact absurd ((hirq.trans hlow).symm.trans hhigh) Bool.false_ne_true
    · obtain ⟨-, hidle⟩ := he.done_and_idle
      exact .inl ⟨hbusy, hidle, hdoneie.symm.trans (he.irq_eq_doneie.symm.trans hhigh)⟩
  · obtain ⟨hdone, ha, hset⟩ := (access_effect (setInputs rest s) a).inten_of_irq_rises hlow hhigh
    exact .inr ⟨hdone, a.wdata, rest, ha ▸ hin, hset⟩
  · exact absurd ((resetEvent_irq _).symm.trans hhigh) Bool.false_ne_true
  · exact absurd (hlow.symm.trans hhigh) Bool.false_ne_true

/-- Settles O32: irq by definition, its rise by the cases of a step, and both rises by what the command and the WRITE leave. -/
theorem irqRisesOnlyOnCompletionOrEnable : Obligations.IrqRisesOnlyOnCompletionOrEnable := by
  refine ⟨fun s => rfl, fun s t => step_irq_rises, fun i s hdoneie => ?completion, fun s w hdone hset => ?enable⟩
  case completion =>
    obtain ⟨t, ht, he⟩ := exec_effect i s
    exact ⟨t, ht, he.irq_eq_doneie.trans hdoneie⟩
  case enable => rw [access_write_inten, writeInten_irq, hset, hdone, Bool.and_self]

/-- Settles O33: what the WRITEs to STATUS, CMD and INTEN and the reset leave in DONE and DONEIE. -/
theorem irqIsClearedOrDisabled : Obligations.IrqIsClearedOrDisabled := by
  refine ⟨fun s w hidle hbit => ?clear, fun s w hidle => ?issue, fun s t rest hin h => ?reset, fun s => ?disable⟩
  case clear => rw [access_write_status w hidle, clearStatus_irq, hbit, Bool.not_true, Bool.and_false]
  case issue =>
    rw [access_write_idle hidle (target_cmd _) w]
    exact issue_irq w s
  case reset =>
    rw [step_resetAssert hin] at h
    cases h
    exact resetEvent_irq _
  case disable =>
    refine ⟨writeInten 0 s, access_write_inten s 0, Bool.false_and _, rfl, ?_⟩
    rw [access_write_inten]
    exact Bool.true_and _

/-! ### The idle sequencer -/

/-- The sequencer's turn while idle, or while reset is held, answers the same state (60_exceptions.md R200, 70_reset_and_hazards.md
R210). -/
theorem sequencerTurn_idle {s : State} (h : s.phase = .idle ∨ s.resetHeld = true) : sequencerTurn s = .next s := by
  unfold sequencerTurn
  split
  · rfl
  · next hheld => rw [h.resolve_right hheld]

/-- Settles O8: the turn is taken with no input left, or after it is taken off the inputs. -/
theorem idleSequencerKeepsAllState : Obligations.IdleSequencerKeepsAllState := by
  refine fun s rest h => ⟨fun hnil => ?_, fun hcons => ?_⟩
  · rw [step, hnil]
    exact sequencerTurn_idle h
  · rw [step, hcons]
    exact sequencerTurn_idle (s := setInputs rest s) h

end Sys2Proof.Machine
end

section
/-!
PROOFS. Reset and hazards (70_reset_and_hazards.md): the step of every input (R210, R212), that no other step stops, that a
command in flight completes unless reset intervenes (R219), and that a READ sees the WRITE before it (R217).
-/
namespace Sys2Proof.Machine

/-! ### The step of each input -/

/-- With no input left, a step is the sequencer's turn (30_encoding.md R87). -/
theorem step_no_input {s : State} (hin : s.inputs = []) : step s = sequencerTurn s := by
  rw [step, hin]

/-- A step whose next input is the sequencer's turn takes it (30_encoding.md R86). -/
theorem step_sequencer {s : State} {rest : List Input} (hin : s.inputs = .sequencer :: rest) :
    step s = sequencerTurn (setInputs rest s) := by
  rw [step, hin]

/-- An access while reset is held has no step (70_reset_and_hazards.md R212). -/
theorem step_access_held {s : State} {a : Access} {rest : List Input} (hin : s.inputs = .access a :: rest)
    (hheld : s.resetHeld = true) : step s = .fault .accessDuringReset := by
  rw [step, hin, hheld]
  rfl

/-- The step that takes the fall of the reset input is the end of reset (70_reset_and_hazards.md R212). -/
theorem step_resetRelease {s : State} {rest : List Input} (hin : s.inputs = .resetRelease :: rest) :
    step s = .next (releaseReset (setInputs rest s)) := by
  rw [step, hin]

/-- Settles O16, by the next input: only an access looks at the reset input, and the sequencer's turn never stops. -/
theorem stepStopsOnlyAtAnAccessDuringReset : Obligations.StepStopsOnlyAtAnAccessDuringReset := by
  intro s
  match hin : s.inputs with
  | [] =>
    obtain ⟨t, ht⟩ := sequencerTurn_next s
    exact .inl ⟨t, (step_no_input hin).trans ht⟩
  | .sequencer :: rest =>
    obtain ⟨t, ht⟩ := sequencerTurn_next (setInputs rest s)
    exact .inl ⟨t, (step_sequencer hin).trans ht⟩
  | .access a :: rest =>
    cases hheld : s.resetHeld with
    | false => exact .inl ⟨_, step_access hin hheld⟩
    | true => exact .inr ⟨rfl, ⟨a, rest, rfl⟩, step_access_held hin hheld⟩
  | .resetAssert :: rest => exact .inl ⟨_, step_resetAssert hin⟩
  | .resetRelease :: rest => exact .inl ⟨_, step_resetRelease hin⟩

/-- Settles O23, from the steps of an access while reset is held and of the end of reset. -/
theorem noAccessWhileResetIsHeld : Obligations.NoAccessWhileResetIsHeld :=
  fun _ _ => ⟨fun _ hheld hin => step_access_held hin hheld, fun hin => step_resetRelease hin⟩

/-! ### Reset -/

/-- Reset leaves no byte written (70_reset_and_hazards.md R211). -/
theorem resetEvent_buf (s : State) (b : Buf) : (resetEvent s).buf b = [] := by
  cases b <;> rfl

/-- STATUS after reset (10_state.md R36). -/
theorem resetEvent_statusWord (s : State) : (resetEvent s).statusWord = 0x00000000 := by
  rw [State.statusWord, State.busy, resetEvent_done, resetEvent_err, resetEvent_ecode, resetEvent_phase]
  rfl

/-- INTEN after reset (10_state.md R36). -/
theorem resetEvent_intenWord (s : State) : (resetEvent s).intenWord = 0x00000000 := by
  rw [State.intenWord, resetEvent_doneie]
  rfl

/-- Settles O22: the step is the reset event, each register of which holds its literal value, with nothing written to a buffer. -/
theorem resetInAnyState : Obligations.ResetInAnyState := by
  intro s rest hin
  have hdraws (b : Buf) := readByte_of_buf_nil (resetEvent_buf (setInputs rest s) b)
  exact ⟨_, step_resetAssert hin, rfl, resetEvent_statusWord _, resetEvent_intenWord _, rfl, rfl, rfl, rfl, rfl, rfl,
    hdraws, rfl, rfl, rfl⟩

/-! ### Completion of a command in flight -/

/-- A step of a busy machine that no reset reaches completes the command, or leaves it in flight with one input less
(30_encoding.md R86, R87). -/
theorem step_completes_or_stays_busy {s : State} {x : Input} {rest : List Input} (hin : s.inputs = x :: rest)
    (hx : x ≠ .resetAssert) (hheld : s.resetHeld = false) (hbusy : s.phase = .busy) :
    ∃ t, step s = .next t ∧
      (t.phase = .idle ∧ t.done = true ∨ t.phase = .busy ∧ t.resetHeld = false ∧ t.inputs = rest) := by
  cases x with
  | access a =>
    have hstep := step_access hin hheld
    rw [hostStep_busy a rest hbusy] at hstep
    exact ⟨_, hstep, .inr ⟨hbusy, hheld, rfl⟩⟩
  | sequencer =>
    obtain ⟨t, ht, he⟩ := exec_effect (decodeWord s.pend) (setInputs rest s)
    obtain ⟨hdone, hidle⟩ := he.done_and_idle
    exact ⟨t, (step_sequencer_busy hin hheld hbusy).trans ht, .inl ⟨hidle, hdone⟩⟩
  | resetAssert => exact absurd rfl hx
  | resetRelease => exact ⟨_, step_resetRelease hin, .inr ⟨hbusy, rfl, rfl⟩⟩

/-- A busy machine that no reset reaches completes its command at the latest one step after its last input
(70_reset_and_hazards.md R219). -/
theorem stepN_completes {inputs : List Input} (hreset : Input.resetAssert ∉ inputs) {s : State} (hin : s.inputs = inputs)
    (hheld : s.resetHeld = false) (hbusy : s.phase = .busy) :
    ∃ k t, k ≤ inputs.length + 1 ∧ stepN k s = .next t ∧ t.phase = .idle ∧ t.done = true := by
  induction inputs generalizing s with
  | nil =>
    obtain ⟨t, ht, he⟩ := exec_effect (decodeWord s.pend) s
    obtain ⟨hdone, hidle⟩ := he.done_and_idle
    exact ⟨1, t, le_rfl, stepN_succ ((step_no_input_busy hin hheld hbusy).trans ht), hidle, hdone⟩
  | cons x rest ih =>
    obtain ⟨hx, hrest⟩ := List.ne_and_not_mem_of_not_mem_cons hreset
    obtain ⟨t, hstep, ⟨hidle, hdone⟩ | ⟨htbusy, htheld, htin⟩⟩ := step_completes_or_stays_busy hin hx.symm hheld hbusy
    · exact ⟨1, t, by simp, stepN_succ hstep, hidle, hdone⟩
    · obtain ⟨k, u, hk, hrun, hu⟩ := ih hrest htin htheld htbusy
      exact ⟨k + 1, u, by simpa using hk, (stepN_succ hstep).trans hrun, hu⟩

/-- Settles O15, by induction on the inputs still to come. -/
theorem issuedCommandsComplete : Obligations.IssuedCommandsComplete :=
  fun _ hheld hbusy hreset => stepN_completes hreset rfl hheld hbusy

/-! ### A READ after a WRITE -/

/-- The targets that store a whole word of the host's: MLEN, V0, V1 and the buffer words (20_memory.md R59). -/
def Target.storesWord : Target → Bool
  | .mlen | .v0 | .v1 | .word _ _ => true
  | .cmd | .status | .inten | .olen | .key0 | .key1 | .key2 | .key3 => false

/-- MLEN, V0, V1 and whatever an offset of a window reaches store a whole word (20_memory.md R51). -/
theorem storesWord_of_target {capacity offset : Nat} {p : Target}
    (hoff : offset = 0x00C ∨ offset = 0x030 ∨ offset = 0x034 ∨ 0x1000 ≤ offset) (hp : target capacity offset = some p) :
    p.storesWord = true := by
  obtain rfl | rfl | rfl | hwindow := hoff
  · cases (target_mlen capacity).symm.trans hp
    rfl
  · cases (target_v0 capacity).symm.trans hp
    rfl
  · cases (target_v1 capacity).symm.trans hp
    rfl
  · obtain hreg | ⟨b, i, rfl, -⟩ := target_cases hp
    · have := registerMap_offset _ hreg
      omega
    · rfl

/-- The WRITE of a stored word leaves PHASE and the size of the buffers. -/
theorem writeTarget_keeps_phase_capacity {p : Target} (hp : p.storesWord = true) (s : State) (w : Word) :
    (writeTarget s p w).phase = s.phase ∧ (writeTarget s p w).capacity = s.capacity := by
  cases p with
  | mlen | v0 | v1 => exact ⟨rfl, rfl⟩
  | word b i => cases b <;> exact ⟨rfl, rfl⟩
  | _ => cases hp

/-- A stored word reads back as it was written. -/
theorem readTarget_writeTarget_same {p : Target} (hp : p.storesWord = true) (s : State) (w : Word) :
    readTarget (writeTarget s p w) p = w := by
  cases p with
  | mlen | v0 | v1 => rfl
  | word b i =>
    refine memRead4_of_bytes _ i w fun k hk => (readByte_setBuf_memWrite s b b i (i + k) w).trans ?_
    rw [if_pos ⟨rfl, by omega, by omega⟩, Nat.add_sub_cancel_left]
  | _ => cases hp

/-- A WRITE answered OKAY was admitted, and left its target's effect (20_memory.md R58). -/
theorem admitted_of_write_okay {s t : State} {offset : Nat} {w : Word}
    (h : access s ⟨.write, offset, 4, w⟩ = (t, ⟨.okay, none⟩)) :
    ∃ p, admission s ⟨.write, offset, 4, w⟩ = .ok p ∧ t = writeTarget s p w := by
  cases hadm : admission s ⟨.write, offset, 4, w⟩ with
  | error e => cases (access_error hadm).symm.trans h
  | ok p =>
    cases (access_write hadm rfl).symm.trans h
    exact ⟨p, rfl, rfl⟩

/-- Settles O30: the WRITE left its target's effect, and the READ reaches the same target in that state, which is still idle. -/
theorem hostReadsWhatItWrote : Obligations.HostReadsWhatItWrote := by
  intro s t offset w v hidle hoff hwrite
  obtain ⟨p, hok, rfl⟩ := admitted_of_write_okay hwrite
  obtain ⟨-, halign, htarget, -⟩ := admission_ok hok
  have hstores := storesWord_of_target hoff htarget
  obtain ⟨hphase, hcapacity⟩ := writeTarget_keeps_phase_capacity hstores s w
  have hread := access_read_idle (hphase.trans hidle) ((congrArg (target · offset) hcapacity).trans htarget) v halign
  rw [hread, readTarget_writeTarget_same hstores]

end Sys2Proof.Machine
end

section
/-!
PROOFS. The block cipher vectors of 95_test_vectors.md section 2.1: TEA_ENC on B1 and B8, TEA_DEC on B11.
-/
namespace Sys2Proof.Machine

/-- B8, the golden vector G1: the key words all differ, so a swapped key slot shows. -/
theorem teaEnc_g1 :
    teaEnc 0x4C4C4548 0x0000004F ⟨0x33323130, 0x37363534, 0x42413938, 0x46454443⟩ = (0x841C699C, 0xB7F85A62) := by
  decide

/-- The words that B11 gives for TEA_DEC encrypt to its block. -/
theorem teaEnc_b11_plain :
    teaEnc 0xC727FA85 0x7D06241A ⟨0xDEADBEEF, 0x01020304, 0xCAFEBABE, 0x0BADF00D⟩ = (0x12345678, 0x9ABCDEF0) := by
  decide

/-- B11: TEA_DEC gives the words back, since it undoes TEA_ENC. -/
theorem teaDec_b11 :
    teaDec 0x12345678 0x9ABCDEF0 ⟨0xDEADBEEF, 0x01020304, 0xCAFEBABE, 0x0BADF00D⟩ = (0xC727FA85, 0x7D06241A) := by
  simpa only [teaEnc_b11_plain] using
    teaDec_teaEnc 0xC727FA85 0x7D06241A ⟨0xDEADBEEF, 0x01020304, 0xCAFEBABE, 0x0BADF00D⟩

/-- Settles O39: B1 is R105's example, and the B8 and B11 rows are above. -/
theorem blockCipherVectors : Obligations.BlockCipherVectors := ⟨teaEnc_zero, teaEnc_g1, teaDec_b11⟩

end Sys2Proof.Machine
end
